-- ==== Sys2Proof/Word.lean ====
section
/-! DEFINITION. The word types of the machine: the widths `POS_W`, `FREQ_W`, `BITS_W` of `00_scope.md` R8 and the
widths of the op fields of `30_encoding.md` R82 and R86. -/

namespace Sys2Proof

/-- A sample position, a pulse length or an annotation bound: `POS_W` = 64 bits (R8). -/
abbrev Pos := BitVec 64

/-- A sample rate or a coil frequency: `FREQ_W` = 32 bits (R8). -/
abbrev Freq := BitVec 32

/-- A JTAG bit vector, right-aligned: `BITS_W` = 64 bits, bit 0 the rightmost (R9, R86). -/
abbrev Vec := BitVec 64

/-- The length of a JTAG bit vector: `ceil(log2(BITS_W+1))` = 7 bits, legal values 0 to 64 (R86). -/
abbrev Len := BitVec 7

/-- One record of the op stream as bits (the record's layout: log entry 1). -/
abbrev OpWord := BitVec 208

end Sys2Proof
end

