-- ==== Sys2Proof/Config.lean ====
section
/-! DEFINITION. What is fixed for the machine: the constants of `00_scope.md` R7, the legal lengths of R8, and the
values the spec leaves open, each an opaque constant of which nothing can be proved. -/

namespace Sys2Proof.Config

/-- Consecutive `1` symbols that make a header (R7). -/
@[simp] abbrev headerRun : Nat := 9
/-- Symbols per payload group: four data bits and a row-parity bit (R7). -/
@[simp] abbrev groupBits : Nat := 5
/-- Data bits of a group, and column-parity bits of a trailer (R7). -/
@[simp] abbrev dataBits : Nat := 4
/-- Payload symbols per frame (R7). -/
@[simp] abbrev payloadBits : Nat := 50
/-- `THRESH_NUM` of `half_bit_threshold = bit_width * 3 / 4` (R7, R122). -/
@[simp] abbrev threshNum : Nat := 3
/-- `THRESH_DEN` (R7, R122). -/
@[simp] abbrev threshDen : Nat := 4
/-- The reset value of `em.coil` (R7, R26). -/
@[simp] abbrev defaultCoil : Nat := 125000
/-- `BITS_W`, the largest JTAG vector length (R8). -/
@[simp] abbrev bitsW : Nat := 64

/-- The named entries of the acknowledge-code table; `none` is an explicit "Reserved" entry. R94 (D22) leaves the
entries open. Free value, log entry 8. -/
opaque ackEntry : BitVec 3 → Option String

/-- A code whose entry in the acknowledge-code table is "Reserved": the table has such entries (R8, R94), which ones
is open. Free value, log entry 8. -/
opaque ackReservedCode : BitVec 3

/-- The named entries of the register-address table; `none` is an explicit "Reserved" entry. R95 (D22) leaves the
entries open. Free value, log entry 8. -/
opaque addrEntry : BitVec 2 → Option String

/-- A code whose entry in the register-address table is "Reserved": the table has such entries (R8, R95), which ones
is open. Free value, log entry 8. -/
opaque addrReservedCode : BitVec 2

/-- Whether the hexadecimal digit of a `DATA` text is in upper case, which R98 leaves open. Free value, log entry 8. -/
opaque dataUpperCase : BitVec 4 → Bool

/-- Whether the hexadecimal digits of an `IDCODE` text are in upper case, which R98 leaves open. Free value, log
entry 8. -/
opaque idcodeUpperCase : BitVec 7 → BitVec 64 → Bool

/-- How many leading zeros an `IDCODE` text prints, which R98 leaves open. Free value, log entry 8. -/
opaque idcodeLeadingZeros : BitVec 7 → BitVec 64 → Nat

/-- The `reg` wires of a JT annotation slot for the kinds whose payload (R97) names no register: R97 gives every
slot a `reg[2:0]` and states no value for these. The arguments are all that R255 and R207 ("appears in no
annotation", of `sel`) let it depend on: the kind, the code of `jt.st` before the op, and the command's vector and
range. Free value, log entry 7. -/
opaque slotReg (kind st : BitVec 3) (len : BitVec 7) (val start stop : BitVec 64) : BitVec 3

end Sys2Proof.Config
end

