-- ==== Sys2Proof/Syntax.lean ====
section
/-! DEFINITION. The ops: one constructor of `Instr` per row of `spec/opcode_table.json` (29 rows). The rows of the
formats `EM`, `JT` and `PIN` are the ops of `30_encoding.md` R82, R86 and R99. The rows of the formats
`EM_DATARATE_CODE`, `JT_IR_PATTERN` and `JT_DR_LAYOUT` are the same ops written with one operand fixed (log entry 2). -/

namespace Sys2Proof

/-- The operands of a `JT_CMD` besides its selector: the vector `(len, val)` and the sample range of the transfer (R86). -/
structure JtCommand where
  /-- number of bits of the vector, 0 to 64 -/
  len : Len
  /-- the vector, right-aligned -/
  val : Vec
  /-- start of the transfer's sample range -/
  start : Pos
  /-- end of the transfer's sample range -/
  stop : Pos
deriving DecidableEq, Repr

/-- The operands of an `"IR TDI"` command whose low four bits the row fixes: the ignored bits `val[len-1:4]`
(`extra` of them, right-aligned in `upper`) and the sample range (R88, R204 corner case a). -/
structure IrVector where
  /-- how many bits the vector has above its four pattern bits, 0 to 60 -/
  extra : BitVec 6
  /-- the port bits `val[63:4]` -/
  upper : BitVec 60
  /-- start of the transfer's sample range -/
  start : Pos
  /-- end of the transfer's sample range -/
  stop : Pos
deriving DecidableEq, Repr

/-- The line a data-register transfer was taken from: `"DR TDI"` or `"DR TDO"` (R87). -/
inductive DrLine where
  | tdi
  | tdo
deriving DecidableEq, Repr

/-- The four `register_select` codes of R87. -/
inductive JtSelector where
  | irTdi
  | drTdi
  | drTdo
  | reserved
deriving DecidableEq, Repr

/-- The ops, one constructor per row of `spec/opcode_table.json`. -/
inductive Instr where
  /-- `EM_CFG_POLARITY`, `a[0]` (R125) -/
  | emCfgPolarity (activeLow : Bool)
  /-- `EM_CFG_DATARATE`, `a[1:0]` (R126) -/
  | emCfgDatarate (code : BitVec 2)
  /-- `EM_CFG_COILFREQ`, `a[31:0]` (R127) -/
  | emCfgCoilfreq (coil : Freq)
  /-- `EM_SET_SAMPLERATE`, `a[31:0]` (R128) -/
  | emSetSamplerate (rate : Freq)
  /-- `EM_BATCH`, `a` and `b` (R129) -/
  | emBatch (bstart bend : Pos)
  /-- `EM_SAMPLE`, `a` and `b[0]` (R142) -/
  | emSample (position : Pos) (level : Bool)
  /-- `em_op` 110 (R130) -/
  | emReserved6
  /-- `em_op` 111 (R130) -/
  | emReserved7
  /-- `JT_CMD "IR TDI"` (R201) -/
  | jtCmdIrTdi (c : JtCommand)
  /-- `JT_CMD "DR TDI"` (R201) -/
  | jtCmdDrTdi (c : JtCommand)
  /-- `JT_CMD "DR TDO"` (R201) -/
  | jtCmdDrTdo (c : JtCommand)
  /-- `JT_CMD` with selector 11 (R216) -/
  | jtCmdReservedSelector (c : JtCommand)
  /-- `"IR TDI"` with pattern 1111 (R88, R204) -/
  | irBypass (t : IrVector)
  /-- `"IR TDI"` with pattern 1110 -/
  | irIdcode (t : IrVector)
  /-- `"IR TDI"` with pattern 1010 -/
  | irDpacc (t : IrVector)
  /-- `"IR TDI"` with pattern 1011 -/
  | irApacc (t : IrVector)
  /-- `"IR TDI"` with pattern 1000 -/
  | irAbort (t : IrVector)
  /-- `"IR TDI"` with any of the eleven other patterns -/
  | irUnknown (pattern : BitVec 4) (t : IrVector)
  /-- a `"DR TDI"` for the register state `Bypass` (R206) -/
  | drBypass (c : JtCommand)
  /-- a data transfer for the register state `IdCode` (R208) -/
  | drIdcode (line : DrLine) (c : JtCommand)
  /-- a data transfer for the register state `Dpacc` (R209) -/
  | drDpacc (line : DrLine) (c : JtCommand)
  /-- a data transfer for the register state `Apacc` (R209) -/
  | drApacc (line : DrLine) (c : JtCommand)
  /-- a data transfer for the register state `Abort` (R212) -/
  | drAbort (line : DrLine) (c : JtCommand)
  /-- a data transfer for the register state `Unknown` (R215) -/
  | drUnknown (line : DrLine) (c : JtCommand)
  /-- `EM_CFG_DATARATE` with code 00 (R85, R126) -/
  | datarate64
  /-- `EM_CFG_DATARATE` with code 01 -/
  | datarate32
  /-- `EM_CFG_DATARATE` with code 10 -/
  | datarate16
  /-- `EM_CFG_DATARATE` with code 11, reserved -/
  | datarateReserved
  /-- `rst = 1` at a rising clock edge (R99, R260) -/
  | reset
deriving DecidableEq, Repr

/-- Why an op record is no op: the names under which the decoder rejects. None of these can be presented on the
ports of R100; they are spare codes of the model's own record (log entry 1). -/
inductive DecodeError where
  /-- the record's form is none of the six formats of the op table -/
  | unknownForm
  /-- `len > BITS_W`, which "cannot be presented" (R271) -/
  | vectorTooLong
  /-- the record names no register state for a data-register layout row -/
  | unknownLayout
  /-- a `"DR TDO"` for the `Bypass` layout, which accepts only `"DR TDI"` (R205) -/
  | bypassOnTdo
deriving DecidableEq, Repr

end Sys2Proof
end

