-- ==== Sys2Proof/WellFormed.lean ====
section
/-! DEFINITION. Which terms of `Instr` are ops that the ports can carry: vector lengths within `BITS_W` (R86, R271),
and for `IR_UNKNOWN` a pattern outside the five of R88. Every other operand is legal by its type. -/

namespace Sys2Proof

/-- `len` is at most `BITS_W` (R86). -/
def JtCommand.wellFormed (c : JtCommand) : Bool := c.len.toNat ≤ Config.bitsW

/-- The four pattern bits and the bits above them are at most `BITS_W` (R86). -/
def IrVector.wellFormed (t : IrVector) : Bool := 4 + t.extra.toNat ≤ Config.bitsW

/-- The pattern is one of the five of the instruction table (R88). -/
def knownPattern (p : BitVec 4) : Bool :=
  p == 0b1111#4 || p == 0b1110#4 || p == 0b1010#4 || p == 0b1011#4 || p == 0b1000#4

/-- The op can be presented. -/
def Instr.wellFormed : Instr → Bool
  | .emCfgPolarity _ => true
  | .emCfgDatarate _ => true
  | .emCfgCoilfreq _ => true
  | .emSetSamplerate _ => true
  | .emBatch _ _ => true
  | .emSample _ _ => true
  | .emReserved6 => true
  | .emReserved7 => true
  | .jtCmdIrTdi c => c.wellFormed
  | .jtCmdDrTdi c => c.wellFormed
  | .jtCmdDrTdo c => c.wellFormed
  | .jtCmdReservedSelector c => c.wellFormed
  | .irBypass t => t.wellFormed
  | .irIdcode t => t.wellFormed
  | .irDpacc t => t.wellFormed
  | .irApacc t => t.wellFormed
  | .irAbort t => t.wellFormed
  | .irUnknown p t => !knownPattern p && t.wellFormed
  | .drBypass c => c.wellFormed
  | .drIdcode _ c => c.wellFormed
  | .drDpacc _ c => c.wellFormed
  | .drApacc _ c => c.wellFormed
  | .drAbort _ c => c.wellFormed
  | .drUnknown _ c => c.wellFormed
  | .datarate64 => true
  | .datarate32 => true
  | .datarate16 => true
  | .datarateReserved => true
  | .reset => true

end Sys2Proof
end

