-- ==== Sys2Proof/Decode.lean ====
section
/-! DEFINITION. Decoding an op record and encoding an op.

The op codes, selector codes, operand widths and ignored bits are those of `30_encoding.md` R82, R85 to R88. The
record that carries them, one fixed-length word for every op (R81), is the model's own (log entry 1):

| bits | content |
|---|---|
| 2:0 | `code`: `em_op`, `jt_sel`, a datarate code, pattern bits or a `jt.st` code, by the form |
| 6:3 | `form`: which format of the op table the record is written in |
| 7 | the pin `rst` |
| 14:8 | `len` |
| 15 | data-register line: 0 `"DR TDI"`, 1 `"DR TDO"` (layout rows only) |
| 79:16, 143:80, 207:144 | three 64-bit operands: `a`, `b` of an EM op; `val`, `start`, `stop` of a JT op |
-/

namespace Sys2Proof

/-! ### The fields of a record -/

/-- The code bits. -/
def OpWord.code (w : OpWord) : BitVec 3 := w.extractLsb' 0 3
/-- The form bits. -/
def OpWord.form (w : OpWord) : BitVec 4 := w.extractLsb' 3 4
/-- The reset pin. -/
def OpWord.rst (w : OpWord) : BitVec 1 := w.extractLsb' 7 1
/-- The vector length. -/
def OpWord.len (w : OpWord) : Len := w.extractLsb' 8 7
/-- The data-register line. -/
def OpWord.line (w : OpWord) : BitVec 1 := w.extractLsb' 15 1
/-- The first operand: `a` of an EM op, `val` of a JT op. -/
def OpWord.x (w : OpWord) : BitVec 64 := w.extractLsb' 16 64
/-- The second operand: `b` of an EM op, `start` of a JT op. -/
def OpWord.y (w : OpWord) : BitVec 64 := w.extractLsb' 80 64
/-- The third operand: `stop` of a JT op. -/
def OpWord.z (w : OpWord) : BitVec 64 := w.extractLsb' 144 64

/-- A record put together from its fields, most significant first. -/
def OpWord.pack (z y x : BitVec 64) (line : BitVec 1) (len : Len) (rst : BitVec 1) (form : BitVec 4)
    (code : BitVec 3) : OpWord :=
  z ++ y ++ x ++ line ++ len ++ rst ++ form ++ code

/-! ### Decoding -/

/-- The JT operands of a record, refused if the vector is longer than `BITS_W` (R86, R271). -/
def decodeCommand (w : OpWord) : Except DecodeError JtCommand :=
  let c : JtCommand := ⟨w.len, w.x, w.y, w.z⟩
  if c.wellFormed then .ok c else .error .vectorTooLong

/-- The operands of an instruction-pattern row: `len` counts the bits above the pattern, `val` carries them. -/
def decodeIrVector (w : OpWord) : Except DecodeError IrVector :=
  let t : IrVector := ⟨w.len.setWidth 6, w.x.setWidth 60, w.y, w.z⟩
  if w.len.toNat ≤ 60 then .ok t else .error .vectorTooLong

/-- The line of a data-register layout row. -/
def decodeLine (w : OpWord) : DrLine := if w.line = 1#1 then .tdo else .tdi

/-- The EM unit's ops (R82). Operand bits no rule names are ignored. -/
def decodeEm (w : OpWord) : Instr :=
  match w.code.toNat with
  | 0 => .emCfgPolarity (w.x.getLsbD 0)
  | 1 => .emCfgDatarate (w.x.setWidth 2)
  | 2 => .emCfgCoilfreq (w.x.setWidth 32)
  | 3 => .emSetSamplerate (w.x.setWidth 32)
  | 4 => .emBatch w.x w.y
  | 5 => .emSample w.x (w.y.getLsbD 0)
  | 6 => .emReserved6
  | _ => .emReserved7

/-- The JT unit's op by its selector (R87), and the four datarate codes (R85) in the other half of the form. -/
def decodeJt (w : OpWord) : Except DecodeError Instr :=
  match w.code.toNat with
  | 0 => (decodeCommand w).map .jtCmdIrTdi
  | 1 => (decodeCommand w).map .jtCmdDrTdi
  | 2 => (decodeCommand w).map .jtCmdDrTdo
  | 3 => (decodeCommand w).map .jtCmdReservedSelector
  | 4 => .ok .datarate64
  | 5 => .ok .datarate32
  | 6 => .ok .datarate16
  | _ => .ok .datarateReserved

/-- The instruction table of R88. -/
def decodeIr (pattern : BitVec 4) (w : OpWord) : Except DecodeError Instr :=
  match pattern.toNat with
  | 15 => (decodeIrVector w).map .irBypass
  | 14 => (decodeIrVector w).map .irIdcode
  | 10 => (decodeIrVector w).map .irDpacc
  | 11 => (decodeIrVector w).map .irApacc
  | 8 => (decodeIrVector w).map .irAbort
  | _ => (decodeIrVector w).map (.irUnknown pattern)

/-- The data-register layout rows, by the `jt.st` code (R46) of the register state they are for. -/
def decodeDr (w : OpWord) : Except DecodeError Instr :=
  match w.code.toNat with
  | 1 => if w.line = 1#1 then .error .bypassOnTdo else (decodeCommand w).map .drBypass
  | 2 => (decodeCommand w).map (.drIdcode (decodeLine w))
  | 3 => (decodeCommand w).map (.drDpacc (decodeLine w))
  | 4 => (decodeCommand w).map (.drApacc (decodeLine w))
  | 5 => (decodeCommand w).map (.drAbort (decodeLine w))
  | 6 => (decodeCommand w).map (.drUnknown (decodeLine w))
  | _ => .error .unknownLayout

/-- Decoding a record. A record with `rst = 1` is a reset "whatever the op ports carry" (R99). -/
def decode (w : OpWord) : Except DecodeError Instr :=
  if w.rst = 1#1 then .ok .reset
  else
    match w.form.toNat with
    | 0 => .ok (decodeEm w)
    | 1 => decodeIr (1#1 ++ w.code) w
    | 2 => decodeJt w
    | 3 => decodeDr w
    | 4 => decodeIr (0#1 ++ w.code) w
    | _ => .error .unknownForm

/-! ### Encoding -/

/-- An EM op with operands `a` and `b` (R82, R104). -/
def encodeEm (code : BitVec 3) (a b : BitVec 64) : OpWord := OpWord.pack 0 b a 0 0 0 0 code

/-- A JT op with its operands (R86, R104), in the given form. -/
def encodeCommand (form : BitVec 4) (code : BitVec 3) (line : BitVec 1) (c : JtCommand) : OpWord :=
  OpWord.pack c.stop c.start c.val line c.len 0 form code

/-- An instruction-pattern row: the pattern's top bit picks the form, its other bits are the code. -/
def encodeIr (pattern : BitVec 4) (t : IrVector) : OpWord :=
  OpWord.pack t.stop t.start (t.upper.setWidth 64) 0 (t.extra.setWidth 7) 0
    (if pattern.getLsbD 3 then 1 else 4) (pattern.setWidth 3)

/-- The line bit of a data-register layout row. -/
def encodeLine : DrLine → BitVec 1
  | .tdi => 0
  | .tdo => 1

/-- The record of an op. -/
def encode : Instr → OpWord
  | .emCfgPolarity activeLow => encodeEm 0b000 (if activeLow then 1 else 0) 0
  | .emCfgDatarate code => encodeEm 0b001 (code.setWidth 64) 0
  | .emCfgCoilfreq coil => encodeEm 0b010 (coil.setWidth 64) 0
  | .emSetSamplerate rate => encodeEm 0b011 (rate.setWidth 64) 0
  | .emBatch bstart bend => encodeEm 0b100 bstart bend
  | .emSample position level => encodeEm 0b101 position (if level then 1 else 0)
  | .emReserved6 => encodeEm 0b110 0 0
  | .emReserved7 => encodeEm 0b111 0 0
  | .jtCmdIrTdi c => encodeCommand 2 0b000 0 c
  | .jtCmdDrTdi c => encodeCommand 2 0b001 0 c
  | .jtCmdDrTdo c => encodeCommand 2 0b010 0 c
  | .jtCmdReservedSelector c => encodeCommand 2 0b011 0 c
  | .irBypass t => encodeIr 0b1111 t
  | .irIdcode t => encodeIr 0b1110 t
  | .irDpacc t => encodeIr 0b1010 t
  | .irApacc t => encodeIr 0b1011 t
  | .irAbort t => encodeIr 0b1000 t
  | .irUnknown pattern t => encodeIr pattern t
  | .drBypass c => encodeCommand 3 1 0 c
  | .drIdcode line c => encodeCommand 3 2 (encodeLine line) c
  | .drDpacc line c => encodeCommand 3 3 (encodeLine line) c
  | .drApacc line c => encodeCommand 3 4 (encodeLine line) c
  | .drAbort line c => encodeCommand 3 5 (encodeLine line) c
  | .drUnknown line c => encodeCommand 3 6 (encodeLine line) c
  | .datarate64 => OpWord.pack 0 0 0 0 0 0 2 4
  | .datarate32 => OpWord.pack 0 0 0 0 0 0 2 5
  | .datarate16 => OpWord.pack 0 0 0 0 0 0 2 6
  | .datarateReserved => OpWord.pack 0 0 0 0 0 0 2 7
  | .reset => OpWord.pack 0 0 0 0 0 1 0 0

/-! ### The op table's words -/

/-- The record whose low `nbits` bits are `w` and whose other bits are 0. -/
def tableWord (nbits w : Nat) : OpWord := BitVec.ofNat 208 (w % 2 ^ nbits)

/-- The op the decoder reads from a word of the op table (log entry 3). -/
def decodeTableWord (nbits w : Nat) : Option Instr := (decode (tableWord nbits w)).toOption

end Sys2Proof
end

