-- ==== Sys2Proof/Machine/State.lean ====
section
/-! DEFINITION. The state of the machine as plain data: the registers of both units (`10_state.md` R24 to R47), the
output ports (`30_encoding.md` R101), the two annotation streams and the ops still to be presented (`20_memory.md`
R61), their reset values (R48), and why a step can stop. -/

namespace Sys2Proof.Machine

/-! ### The values registers hold -/

/-- `em.datarate`: one of the three legal values (R25). -/
inductive Datarate where
  | r64
  | r32
  | r16
deriving DecidableEq, Repr

/-- `em.fs` (R35); the code 3 "is never written" and is no value of the type (log entry 11). -/
inductive FrameState where
  | header
  | payload
  | trailer
deriving DecidableEq, Repr

/-- `jt.st`: the eight values of its 3 bits (R46). -/
inductive JtSt where
  | idle
  | bypass
  | idcode
  | dpacc
  | apacc
  | abort
  | unknown
  /-- the code 7, "outside the declared set" -/
  | code7
deriving DecidableEq, Repr

/-- A 4-element bit array, element 0 first (R10, R41, R44). -/
structure Bits4 where
  b0 : Bool
  b1 : Bool
  b2 : Bool
  b3 : Bool
deriving DecidableEq, Repr

/-- Four zero bits. -/
abbrev Bits4.zero : Bits4 := ⟨false, false, false, false⟩

/-! ### Annotations (R96, R97) -/

/-- The categories of an EM annotation (R96). -/
inductive EmCat where
  | bit
  | header
  | data
  | parity
  | rowparVerdict
  | colparField
  | stopbit
  | colparVerdict
deriving DecidableEq, Repr

/-- An EM annotation record (R96). -/
structure EmAnnotation where
  cat : EmCat
  start : Pos
  stop : Pos
  /-- the low bits R96 lists are meaningful, the rest 0 -/
  payload : BitVec 4
deriving DecidableEq, Repr

/-- The payload of a JT annotation, one constructor per kind (R97). -/
inductive JtPayload where
  | irSelect (reg : JtSt)
  | bypassRaw (len : Len) (v : Vec)
  | idcode (len : Len) (v : Vec)
  | dataIn (reg : JtSt) (data : BitVec 32) (a : BitVec 2) (rnw : Bool)
  | dataOut (reg : JtSt) (data : BitVec 32) (ack : BitVec 3)
  | abortStatus (dapabort : Bool)
  | abortReservedWarn
  | unknownDiag (len : Len) (v : Vec)
deriving DecidableEq, Repr

/-- A JT annotation record (R97). -/
structure JtAnnotation where
  start : Pos
  stop : Pos
  payload : JtPayload
deriving DecidableEq, Repr

/-- The two error kinds (R240). Taking one is a next state, not a stop (R245). -/
inductive ErrorKind where
  | configurationError
  | internalConsistencyError
deriving DecidableEq, Repr

/-! ### Output ports (R101) -/

/-- One of `em_ann[0..3]`. -/
structure EmSlot where
  start : Pos
  stop : Pos
  cat : BitVec 3
  payload : BitVec 4
deriving DecidableEq, Repr

/-- The EM unit's output port in the cycle of an op; `slots` holds the `count` slots in use. -/
structure EmPort where
  count : BitVec 3
  slots : List EmSlot
  faultCode : BitVec 2
deriving DecidableEq, Repr

/-- One of `jt_ann[0..1]`. -/
structure JtSlot where
  start : Pos
  stop : Pos
  kind : BitVec 3
  reg : BitVec 3
  len : Len
  val : Vec
deriving DecidableEq, Repr

/-- The JT unit's output port in the cycle of an op. -/
structure JtPort where
  count : BitVec 2
  slots : List JtSlot
  faultCode : BitVec 2
deriving DecidableEq, Repr

/-- "the counts and fault codes are `0` in a cycle with no op" (R101). -/
abbrev EmPort.idle : EmPort := ⟨0, [], 0⟩
/-- "the counts and fault codes are `0` in a cycle with no op" (R101). -/
abbrev JtPort.idle : JtPort := ⟨0, [], 0⟩

/-! ### Registers -/

/-- The registers of the EM unit (R24 to R45). -/
structure EmRegs where
  /-- `em.pol_low` (R24) -/
  polLow : Bool
  /-- `em.datarate` (R25) -/
  datarate : Datarate
  /-- `em.coil` (R26) -/
  coil : Freq
  /-- `em.samplerate`, 0 for "unset" (R27) -/
  samplerate : Freq
  /-- `em.batch_ok` (R28) -/
  batchOk : Bool
  /-- `em.cfg_fault` (R29) -/
  cfgFault : Bool
  /-- `em.have_prev` (R30) -/
  havePrev : Bool
  /-- `em.prev_level` (R31) -/
  prevLevel : Bool
  /-- `em.prev_pos` (R32) -/
  prevPos : Pos
  /-- `em.oldpl` (R33) -/
  oldpl : Pos
  /-- `em.last_bit_pos` (R34) -/
  lastBitPos : Pos
  /-- `em.fs` (R35) -/
  fs : FrameState
  /-- `em.run` (R36) -/
  run : Nat
  /-- `em.hstart` (R37) -/
  hstart : Pos
  /-- `em.pcnt` (R38) -/
  pcnt : Nat
  /-- `em.nib` (R39) -/
  nib : BitVec 4
  /-- `em.rpar` (R40) -/
  rpar : Bool
  /-- `em.col[0..3]` (R41) -/
  col : Bits4
  /-- `em.gstart` (R42) -/
  gstart : Pos
  /-- `em.dstop` (R42) -/
  dstop : Pos
  /-- `em.tcnt` (R43) -/
  tcnt : Nat
  /-- `em.tb[0..3]` (R44) -/
  tb : Bits4
  /-- `em.tstart` (R45) -/
  tstart : Pos
  /-- `em.tstop` (R45) -/
  tstop : Pos
deriving DecidableEq, Repr

/-- The registers of the JT unit (R46, R47). -/
structure JtRegs where
  /-- `jt.st` (R46) -/
  st : JtSt
  /-- `jt.fault` (R47) -/
  fault : Bool
deriving DecidableEq, Repr

/-- The whole state (R20), with the ports and streams of R61 and R101 (log entries 4 and 6). -/
structure State where
  /-- the EM unit -/
  em : EmRegs
  /-- the JT unit -/
  jt : JtRegs
  /-- the ops the host will present, oldest first (R61, R63) -/
  pending : List OpWord
  /-- the EM unit's output port in the cycle of the op just performed (R101) -/
  emPort : EmPort
  /-- the JT unit's output port in the cycle of the op just performed (R101) -/
  jtPort : JtPort
  /-- the EM annotation stream, oldest first (R61, R64) -/
  emStream : List EmAnnotation
  /-- the JT annotation stream, oldest first (R61, R64) -/
  jtStream : List JtAnnotation
deriving DecidableEq, Repr

/-! ### Reset values (R48) -/

/-- The EM column of the table of R48. -/
def EmRegs.reset : EmRegs where
  polLow := false
  datarate := .r64
  coil := 125000#32
  samplerate := 0#32
  batchOk := false
  cfgFault := false
  havePrev := false
  prevLevel := false
  prevPos := 0#64
  oldpl := 0#64
  lastBitPos := 0#64
  fs := .header
  run := 0
  hstart := 0#64
  pcnt := 0
  nib := 0#4
  rpar := false
  col := .zero
  gstart := 0#64
  dstop := 0#64
  tcnt := 0
  tb := .zero
  tstart := 0#64
  tstop := 0#64

/-- The JT column of the table of R48. -/
def JtRegs.reset : JtRegs where
  st := .idle
  fault := false

/-- The machine right after reset (R48, R260), with nothing presented and nothing emitted. -/
def State.reset : State where
  em := EmRegs.reset
  jt := JtRegs.reset
  pending := []
  emPort := .idle
  jtPort := .idle
  emStream := []
  jtStream := []

/-! ### Why a step can stop -/

/-- Why a step stops with a fault. (The faults of R240 are no stop: they are taken, `State.takeFault`.) -/
inductive Fault where
  /-- Raised by `EM_SAMPLE` at an edge whose symbol would start before position 0: `em.oldpl` is larger than
  `em.prev_pos`, which by R155 no run from reset reaches. Safe: nothing is claimed of such a state (log entry 10). -/
  | symbolBeforeOrigin
deriving DecidableEq, Repr

/-- Why a step is refused. -/
inductive Refusal where
  /-- Raised by an arm of `exec` whose op has no meaning yet. Safe. -/
  | notModelled (mnemonic : String)
  /-- Raised by `step` on a record that is no op of the ports of R100. Safe (log entry 1). -/
  | undecodable (reason : DecodeError)
  /-- Raised by `EM_SAMPLE` at an edge whose position is not above `em.prev_pos`: "A model must refuse it" (R271).
  Safe (log entry 9). -/
  | positionNotIncreasing
deriving DecidableEq, Repr

end Sys2Proof.Machine
end

