-- ==== Sys2Proof/Machine/Operands.lean ====
section
/-! DEFINITION. Every value an op computes from its operands and the registers before it uses it (the table of
`30_encoding.md` R103): the derived timing values, the pulse class, the emission arms, the normalised vector and the
fields of the register layouts. -/

namespace Sys2Proof.Machine

/-! ### Configuration values -/

/-- The number a datarate stands for (R25, R85). -/
def Datarate.value : Datarate → Nat
  | .r64 => 64
  | .r32 => 32
  | .r16 => 16

/-- The datarate of a code; the code `11` is reserved (R85). -/
def datarateOfCode (code : BitVec 2) : Option Datarate :=
  match code.toNat with
  | 0 => some .r64
  | 1 => some .r32
  | 2 => some .r16
  | _ => none

/-- `bit_width` (R121): exact division. -/
def EmRegs.bitWidth (e : EmRegs) : Rat :=
  (e.samplerate.toNat : Rat) / (e.coil.toNat : Rat) * (e.datarate.value : Rat)

/-- `half_bit_threshold` (R122). -/
def EmRegs.halfBitThreshold (e : EmRegs) : Rat := e.bitWidth * (1 / 2) + e.bitWidth * (1 / 4)

/-- `invert` (R123). -/
def EmRegs.invert (e : EmRegs) : Bool := e.polLow

/-! ### Pulse classes -/

/-- The three answers of `T_cmp` (R124). -/
inductive PulseClass where
  | short
  | equal
  | long
deriving DecidableEq, Repr

/-- `T_cmp(x)`: the exact comparison of a pulse length with `half_bit_threshold` by cross-multiplication (R124). -/
def EmRegs.tCmp (e : EmRegs) (x : Pos) : PulseClass :=
  let lhs := Config.threshDen * e.coil.toNat * x.toNat
  let rhs := Config.threshNum * e.samplerate.toNat * e.datarate.value
  if lhs < rhs then .short else if lhs = rhs then .equal else .long

/-! ### Edges and symbols -/

/-- `x // 2`, the floor of half a pulse length (R9, R155). -/
def half (x : Pos) : Pos := x >>> 1

/-- A `BitSymbol` (R154): a value with its sample range. -/
structure BitSymbol where
  value : Bool
  start : Pos
  stop : Pos
deriving DecidableEq, Repr

/-- The four emission arms (R148 to R151). -/
inductive Arm where
  | longAfterLong
  | longAfterShort
  | shortAfterLong
  | shortAfterShort
deriving DecidableEq, Repr

/-- The table of R152: the arm that fires for the class of the current pulse, the class of the previous one and the
guard of R151. -/
def emissionArm (c oc : PulseClass) (guard : Bool) : Option Arm :=
  match c, oc with
  | .short, .short => if guard then some .shortAfterShort else none
  | .short, .equal => none
  | .short, .long => some .shortAfterLong
  | .equal, .short => none
  | .equal, .equal => none
  | .equal, .long => none
  | .long, .short => some .longAfterShort
  | .long, .equal => none
  | .long, .long => some .longAfterLong

/-- The guard `em.last_bit_pos <= pp - opl` of R151, over the integers. -/
def EmRegs.anchorGuard (e : EmRegs) : Bool := e.lastBitPos.toNat + e.oldpl.toNat ≤ e.prevPos.toNat

/-- How far before `pp` a symbol starts: half the previous pulse after a long one, all of it after a short one. -/
def Arm.reach (arm : Arm) (opl : Pos) : Pos :=
  match arm with
  | .longAfterLong => half opl
  | .longAfterShort => opl
  | .shortAfterLong => half opl
  | .shortAfterShort => opl

/-- How far before `position` a symbol stops: half a long current pulse, nothing for a short one. -/
def Arm.recede (arm : Arm) (pl : Pos) : Pos :=
  match arm with
  | .longAfterLong => half pl
  | .longAfterShort => half pl
  | .shortAfterLong => 0#64
  | .shortAfterShort => 0#64

/-- Whether the arm writes `em.last_bit_pos`: only the two short arms do (R150, R151). -/
def Arm.anchors : Arm → Bool
  | .longAfterLong => false
  | .longAfterShort => false
  | .shortAfterLong => true
  | .shortAfterShort => true

/-- The pulse length `pl` of an edge at `position` (R145). -/
def EmRegs.pulseLength (e : EmRegs) (position : Pos) : Pos := position - e.prevPos

/-- The arm that fires at an edge at `position` (R146, R152): both lengths are classified against the threshold as
it is now. -/
def EmRegs.edgeArm (e : EmRegs) (position : Pos) : Option Arm :=
  emissionArm (e.tCmp (e.pulseLength position)) (e.tCmp e.oldpl) e.anchorGuard

/-- The symbol value (R147): the level of the pulse that has just ended, polarity-corrected. -/
def EmRegs.symbolValue (e : EmRegs) : Bool := e.prevLevel ^^ e.invert

/-- The symbol an arm produces at an edge at `position` (R148 to R151). -/
def EmRegs.symbolOf (e : EmRegs) (arm : Arm) (position : Pos) : BitSymbol where
  value := e.symbolValue
  start := e.prevPos - arm.reach e.oldpl
  stop := position - arm.recede (e.pulseLength position)

/-! ### JTAG vectors -/

/-- The normalised vector `val mod 2^len` (R202). -/
def normVector (c : JtCommand) : Vec := BitVec.ofNat 64 (c.val.toNat % 2 ^ c.len.toNat)

/-- The command an instruction-pattern row stands for: the pattern below the ignored bits (R88). -/
def irCommand (pattern : BitVec 4) (t : IrVector) : JtCommand where
  len := 4#7 + t.extra.setWidth 7
  val := t.upper ++ pattern
  start := t.start
  stop := t.stop

/-- `IR_TABLE` (R88): the state selected by the low four bits of an instruction vector. -/
def irTable (pattern : BitVec 4) : JtSt :=
  match pattern.toNat with
  | 15 => .bypass
  | 14 => .idcode
  | 10 => .dpacc
  | 11 => .apacc
  | 8 => .abort
  | _ => .unknown

/-- The instruction pattern `v[3:0]` (R204). -/
def patternField (v : Vec) : BitVec 4 := v.extractLsb' 0 4
/-- `data[31:0] = v[34:3]` (R89, R90). -/
def dataField (v : Vec) : BitVec 32 := v.extractLsb' 3 32
/-- `a[1:0] = v[2:1]` (R89). -/
def addrField (v : Vec) : BitVec 2 := v.extractLsb' 1 2
/-- `rnw = v[0]` (R89). -/
def rnwField (v : Vec) : Bool := v.getLsbD 0
/-- `ack[2:0] = v[2:0]` (R90). -/
def ackField (v : Vec) : BitVec 3 := v.extractLsb' 0 3
/-- `DAPABORT = v[0]` (R91). -/
def dapabortField (v : Vec) : Bool := v.getLsbD 0
/-- The reserved bits `v[31:1]` of an ABORT vector (R91). -/
def abortReservedField (v : Vec) : BitVec 31 := v.extractLsb' 1 31

/-- The selector a data-register layout row's line stands for (R87). -/
def lineSelector : DrLine → JtSelector
  | .tdi => .drTdi
  | .tdo => .drTdo

end Sys2Proof.Machine
end

