-- ==== Sys2Proof/Machine/Flags.lean ====
section
/-! DEFINITION. Parity and the verdicts. The hardware has no condition codes (R29); its computed flags are the row
and column parities and the two verdicts carried in annotations (`42_em_frame.md` R177, R178, R183, R184). -/

namespace Sys2Proof.Machine

/-- Element `k` of a 4-element bit array. -/
def Bits4.get (q : Bits4) (k : Nat) : Bool :=
  match k with
  | 0 => q.b0
  | 1 => q.b1
  | 2 => q.b2
  | 3 => q.b3
  | _ => false

/-- Writing element `k`. -/
def Bits4.put (q : Bits4) (k : Nat) (v : Bool) : Bits4 :=
  match k with
  | 0 => { q with b0 := v }
  | 1 => { q with b1 := v }
  | 2 => { q with b2 := v }
  | 3 => { q with b3 := v }
  | _ => q

/-- Folding a data bit into column `k`: `em.col[k] <- em.col[k] ^ v` (R177). -/
def Bits4.fold (q : Bits4) (k : Nat) (v : Bool) : Bits4 := q.put k (q.get k ^^ v)

/-- `em.tb[0] ++ em.tb[1] ++ em.tb[2] ++ em.tb[3]`, first-arrived bit most significant (R184). -/
def Bits4.word (q : Bits4) : BitVec 4 :=
  BitVec.ofBool q.b0 ++ BitVec.ofBool q.b1 ++ BitVec.ofBool q.b2 ++ BitVec.ofBool q.b3

/-- `((em.nib << 1) | v) mod 16` (R177). -/
def shiftNibble (nib : BitVec 4) (v : Bool) : BitVec 4 := (nib <<< 1) ||| (BitVec.ofBool v).setWidth 4

/-- The row verdict: `OK` if the accumulated exclusive or equals the parity bit (R178). -/
def rowParityOk (rpar v : Bool) : Bool := rpar == v

/-- The column verdict: `OK` only if all four accumulators match the received bits (R184). -/
def colParityOk (col tb : Bits4) : Bool :=
  col.b0 == tb.b0 && col.b1 == tb.b1 && col.b2 == tb.b2 && col.b3 == tb.b3

/-- A one-bit payload in the low bit of the four (R96). -/
def bitPayload (v : Bool) : BitVec 4 := (BitVec.ofBool v).setWidth 4

end Sys2Proof.Machine
end

