-- ==== Sys2Proof/Machine/Ops.lean ====
section
/-! DEFINITION. The operations every op is built from: consume (`20_memory.md` R63), emit (R64), taking a fault
(`60_exceptions.md` R245), reset (`70_reset_and_hazards.md` R260), and the record codes of `30_encoding.md` R96,
R97, R101 and `60_exceptions.md` R241. -/

namespace Sys2Proof.Machine

/-! ### Record codes -/

/-- The category codes (R96). -/
def EmCat.code : EmCat → BitVec 3
  | .bit => 0
  | .header => 1
  | .data => 2
  | .parity => 3
  | .rowparVerdict => 4
  | .colparField => 5
  | .stopbit => 6
  | .colparVerdict => 7

/-- The codes of `jt.st` (R46). -/
def JtSt.code : JtSt → BitVec 3
  | .idle => 0
  | .bypass => 1
  | .idcode => 2
  | .dpacc => 3
  | .apacc => 4
  | .abort => 5
  | .unknown => 6
  | .code7 => 7

/-- The kind codes (R97). -/
def JtPayload.kind : JtPayload → BitVec 3
  | .irSelect _ => 0
  | .bypassRaw _ _ => 1
  | .idcode _ _ => 2
  | .dataIn _ _ _ _ => 3
  | .dataOut _ _ _ => 4
  | .abortStatus _ => 5
  | .abortReservedWarn => 6
  | .unknownDiag _ _ => 7

/-- The fault codes (R241); 0 is "none" and 3 is never produced. -/
def ErrorKind.code : ErrorKind → BitVec 2
  | .configurationError => 1
  | .internalConsistencyError => 2

/-- An EM annotation on its port slot (R96, R101). -/
def EmAnnotation.slot (a : EmAnnotation) : EmSlot where
  start := a.start
  stop := a.stop
  cat := a.cat.code
  payload := a.payload

/-- The register a payload names (R97), if its kind names one. -/
def JtPayload.reg : JtPayload → Option JtSt
  | .irSelect reg => some reg
  | .bypassRaw _ _ => none
  | .idcode _ _ => none
  | .dataIn reg _ _ _ => some reg
  | .dataOut reg _ _ => some reg
  | .abortStatus _ => none
  | .abortReservedWarn => none
  | .unknownDiag _ _ => none

/-- A JT annotation on its port slot: the uniform triple `(reg, len, val)` of R97. Where the kind names no register
the `reg` wires are a free value (log entry 7). -/
def JtPayload.slot (p : JtPayload) (st : JtSt) (c : JtCommand) : JtSlot where
  start := c.start
  stop := c.stop
  kind := p.kind
  reg :=
    match p.reg with
    | some reg => reg.code
    | none => Config.slotReg p.kind st.code c.len (normVector c) c.start c.stop
  len := c.len
  val := normVector c

/-- A JT annotation carries the range of its command (R219). -/
def JtPayload.annotate (p : JtPayload) (c : JtCommand) : JtAnnotation where
  start := c.start
  stop := c.stop
  payload := p

/-- The EM port in the cycle of an op that emits `anns` and raises nothing. -/
def emPortOf (anns : List EmAnnotation) : EmPort where
  count := BitVec.ofNat 3 anns.length
  slots := anns.map EmAnnotation.slot
  faultCode := 0

/-- The JT port in the cycle of a command that emits `payloads` and raises nothing. -/
def jtPortOf (payloads : List JtPayload) (st : JtSt) (c : JtCommand) : JtPort where
  count := BitVec.ofNat 2 payloads.length
  slots := payloads.map fun p => p.slot st c
  faultCode := 0

/-! ### Consume -/

/-- The next op record of the host's stream and the state that has consumed it; an op "takes exactly one input
record, and takes it exactly once" (R63). -/
def State.consume (s : State) : Option (OpWord × State) :=
  match s.pending with
  | [] => none
  | w :: rest => some (w, { s with pending := rest })

/-- The record put where `consume` takes the next one from. -/
def State.present (s : State) (w : OpWord) : State := { s with pending := w :: s.pending }

/-- A cycle with no op: "it does nothing" (R100) and "the counts and fault codes are `0`" (R101). -/
def State.idleCycle (s : State) : State := { s with emPort := .idle, jtPort := .idle }

/-! ### How an op ends -/

/-- An EM op that writes `regs` and emits `anns` in order (R64); the JT port has no op in that cycle. -/
def State.emFinish (s : State) (regs : EmRegs) (anns : List EmAnnotation) : State :=
  { s with
    em := regs
    emPort := emPortOf anns
    jtPort := .idle
    emStream := s.emStream ++ anns }

/-- A JT op that writes `regs` and emits `payloads` in order with the command's range (R64, R219). -/
def State.jtFinish (s : State) (regs : JtRegs) (c : JtCommand) (payloads : List JtPayload) : State :=
  { s with
    jt := regs
    emPort := .idle
    jtPort := jtPortOf payloads s.jt.st c
    jtStream := s.jtStream ++ payloads.map fun p => p.annotate c }

/-- An op without effect: no register changes, nothing is emitted, no fault is raised (R102, R143, R144, R216, R222). -/
def State.quiet (s : State) : State := s.idleCycle

/-! ### Taking a fault, and recovery -/

/-- Taking a fault (R245): it "transfers control nowhere"; the raising op emits no annotation, writes exactly the
registers listed there, and presents the fault code in that cycle. There is no return op (R246): the EM unit goes on
with the next `EM_BATCH` that finds the sample rate set, the JT unit after a reset. -/
def State.takeFault (s : State) (kind : ErrorKind) : State :=
  match kind with
  | .configurationError =>
    { s with
      em := { s.em with batchOk := false, cfgFault := true }
      emPort := { EmPort.idle with faultCode := kind.code }
      jtPort := .idle }
  | .internalConsistencyError =>
    { s with
      jt := { s.jt with fault := true }
      emPort := .idle
      jtPort := { JtPort.idle with faultCode := kind.code } }

/-- `rst = 1` at a clock edge (R99, R260): every register of both units takes its reset value; nothing is emitted,
and what was emitted before is not withdrawn (R64). -/
def State.pinReset (s : State) : State :=
  { s with
    em := EmRegs.reset
    jt := JtRegs.reset
    emPort := .idle
    jtPort := .idle }

end Sys2Proof.Machine
end

