-- ==== Sys2Proof/Machine/EmConfig.lean ====
section
/-! DEFINITION. The EM unit's configuration ops, the batch begin and the reserved op codes (`40_em_config.md` R125
to R130), and the four datarate codes of `30_encoding.md` R85 as ops of their own. -/

namespace Sys2Proof.Machine

/-- `EM_CFG_POLARITY` (R125). -/
def execEmCfgPolarity (activeLow : Bool) (s : State) : Host.Outcome State Fault Refusal :=
  .next (s.emFinish { s.em with polLow := activeLow } [])

/-- The effect of a datarate code: the reserved code leaves the register unchanged (R126). -/
def State.writeDatarate (s : State) (code : BitVec 2) : State :=
  match datarateOfCode code with
  | some d => s.emFinish { s.em with datarate := d } []
  | none => s.quiet

/-- `EM_CFG_DATARATE` (R126). -/
def execEmCfgDatarate (code : BitVec 2) (s : State) : Host.Outcome State Fault Refusal :=
  .next (s.writeDatarate code)

/-- `DATARATE 64`: code 00 (R85). -/
def execDatarate64 (s : State) : Host.Outcome State Fault Refusal := .next (s.writeDatarate 0b00#2)

/-- `DATARATE 32`: code 01 (R85). -/
def execDatarate32 (s : State) : Host.Outcome State Fault Refusal := .next (s.writeDatarate 0b01#2)

/-- `DATARATE 16`: code 10 (R85). -/
def execDatarate16 (s : State) : Host.Outcome State Fault Refusal := .next (s.writeDatarate 0b10#2)

/-- `DATARATE reserved`: code 11, the write is ignored (R85, R102). -/
def execDatarateReserved (s : State) : Host.Outcome State Fault Refusal := .next (s.writeDatarate 0b11#2)

/-- `EM_CFG_COILFREQ` (R127): a write of zero is ignored. -/
def execEmCfgCoilfreq (coil : Freq) (s : State) : Host.Outcome State Fault Refusal :=
  if coil = 0#32 then .next s.quiet else .next (s.emFinish { s.em with coil := coil } [])

/-- `EM_SET_SAMPLERATE` (R128): zero is stored and means unset; `em.batch_ok` is not changed. -/
def execEmSetSamplerate (rate : Freq) (s : State) : Host.Outcome State Fault Refusal :=
  .next (s.emFinish { s.em with samplerate := rate } [])

/-- `EM_BATCH` (R129): the per-batch check of the sample rate. The bounds are not read (R84). -/
def execEmBatch (_bstart _bend : Pos) (s : State) : Host.Outcome State Fault Refusal :=
  if s.em.samplerate = 0#32 then .next (s.takeFault .configurationError)
  else .next (s.emFinish { s.em with batchOk := true } [])

/-- `em_op` 110 (R130). -/
def execEmReserved6 (s : State) : Host.Outcome State Fault Refusal := .next s.quiet

/-- `em_op` 111 (R130). -/
def execEmReserved7 (s : State) : Host.Outcome State Fault Refusal := .next s.quiet

end Sys2Proof.Machine
end

