-- ==== Sys2Proof/Machine/Frame.lean ====
section
/-! DEFINITION. `FrameStep`, the EM4100 frame state machine (`42_em_frame.md` R170 to R185): what one symbol does to
the frame registers and which annotations it emits, in order. -/

namespace Sys2Proof.Machine

/-- A symbol in state `Header` (R173 to R175). -/
def EmRegs.headerStep (e : EmRegs) (sym : BitSymbol) : EmRegs × List EmAnnotation :=
  if sym.value then
    let hstart := if e.run + 1 = 1 then sym.start else e.hstart
    if e.run + 1 = Config.headerRun then
      ({ e with run := 0, hstart := hstart, fs := .payload }, [⟨.header, hstart, sym.stop, 0⟩])
    else
      ({ e with run := e.run + 1, hstart := hstart }, [])
  else
    ({ e with run := 0 }, [])

/-- A symbol in state `Payload` (R176 to R179). -/
def EmRegs.payloadStep (e : EmRegs) (sym : BitSymbol) : EmRegs × List EmAnnotation :=
  let k := e.pcnt % Config.groupBits
  if k < Config.dataBits then
    ({ e with
        gstart := if k = 0 then sym.start else e.gstart
        nib := shiftNibble e.nib sym.value
        rpar := e.rpar ^^ sym.value
        col := e.col.fold k sym.value
        dstop := if k = 3 then sym.stop else e.dstop
        pcnt := e.pcnt + 1 }, [])
  else
    let full := e.pcnt + 1 = Config.payloadBits
    ({ e with
        nib := 0
        rpar := false
        pcnt := if full then 0 else e.pcnt + 1
        fs := if full then .trailer else e.fs },
      [⟨.data, e.gstart, e.dstop, e.nib⟩,
       ⟨.parity, sym.start, sym.stop, bitPayload sym.value⟩,
       ⟨.rowparVerdict, sym.start, sym.stop, bitPayload (rowParityOk e.rpar sym.value)⟩])

/-- A symbol in state `Trailer` (R182 to R185). -/
def EmRegs.trailerStep (e : EmRegs) (sym : BitSymbol) : EmRegs × List EmAnnotation :=
  let k := e.tcnt
  if k < Config.dataBits then
    ({ e with
        tstart := if k = 0 then sym.start else e.tstart
        tb := e.tb.put k sym.value
        tstop := if k = 3 then sym.stop else e.tstop
        tcnt := e.tcnt + 1 }, [])
  else
    ({ e with col := .zero, tb := .zero, tcnt := 0, fs := .header },
      [⟨.colparField, e.tstart, e.tstop, e.tb.word⟩,
       ⟨.stopbit, sym.start, sym.stop, bitPayload sym.value⟩,
       ⟨.colparVerdict, e.tstart, e.tstop, bitPayload (colParityOk e.col e.tb)⟩])

/-- The arm of the frame state (R171). -/
def EmRegs.frameArm (e : EmRegs) (sym : BitSymbol) : EmRegs × List EmAnnotation :=
  match e.fs with
  | .header => e.headerStep sym
  | .payload => e.payloadStep sym
  | .trailer => e.trailerStep sym

/-- The raw bit annotation of every symbol (R172). -/
def BitSymbol.annotation (sym : BitSymbol) : EmAnnotation := ⟨.bit, sym.start, sym.stop, bitPayload sym.value⟩

/-- `FrameStep(sym)` (R171): the bit annotation first, then what the arm emits. -/
def EmRegs.frameStep (e : EmRegs) (sym : BitSymbol) : EmRegs × List EmAnnotation :=
  ((e.frameArm sym).1, sym.annotation :: (e.frameArm sym).2)

end Sys2Proof.Machine
end

