-- ==== Sys2Proof/Machine/EmSample.lean ====
section
/-! DEFINITION. `EM_SAMPLE`: edge detection, pulse classification, symbol assembly and the hand-off to the frame
state machine (`41_em_edge_pulse.md` R142 to R154). -/

namespace Sys2Proof.Machine

/-- The very first sample (R144, step 2). -/
def EmRegs.firstSample (e : EmRegs) (position : Pos) (level : Bool) : EmRegs :=
  { e with havePrev := true, prevLevel := level, prevPos := position }

/-- The tracking update of every edge (R153, step 8), with the anchor written by the short arms (step 7). -/
def EmRegs.track (e : EmRegs) (arm : Option Arm) (position : Pos) (level : Bool) : EmRegs :=
  { e with
    oldpl := e.pulseLength position
    prevPos := position
    prevLevel := level
    lastBitPos := if (arm.map Arm.anchors).getD false then position else e.lastBitPos }

/-- An edge at a position above `em.prev_pos` (steps 4 to 9). A symbol that would start before position 0 has no
representation; no run from reset meets one (R155, log entry 10). -/
def State.edge (s : State) (position : Pos) (level : Bool) : Host.Outcome State Fault Refusal :=
  match s.em.edgeArm position with
  | none => .next (s.emFinish (s.em.track none position level) [])
  | some arm =>
    if s.em.prevPos < arm.reach s.em.oldpl then .fault .symbolBeforeOrigin
    else
      let r := (s.em.track (some arm) position level).frameStep (s.em.symbolOf arm position)
      .next (s.emFinish r.1 r.2)

/-- `EM_SAMPLE` (R142). At an edge the position must be above `em.prev_pos`; the spec gives other input no meaning
and asks a model to refuse it (R271). -/
def execEmSample (position : Pos) (level : Bool) (s : State) : Host.Outcome State Fault Refusal :=
  if s.em.batchOk = false then .next s.quiet
  else if s.em.havePrev = false then .next (s.emFinish (s.em.firstSample position level) [])
  else if level = s.em.prevLevel then .next s.quiet
  else if position ≤ s.em.prevPos then .refused .positionNotIncreasing
  else s.edge position level

end Sys2Proof.Machine
end

