-- ==== Sys2Proof/Machine/Jtag.lean ====
section
/-! DEFINITION. The JT unit (`43_jtag.md` R200 to R222): one command in every state. The four `JT_CMD` rows, the six
instruction-pattern rows and the six data-register layout rows are all that one op with different operands. -/

namespace Sys2Proof.Machine

/-- The acceptance table of R216. -/
def jtAccepts (st : JtSt) (sel : JtSelector) : Bool :=
  match st, sel with
  | .idle, .irTdi => true
  | .idle, .drTdi => false
  | .idle, .drTdo => false
  | .bypass, .irTdi => false
  | .bypass, .drTdi => true
  | .bypass, .drTdo => false
  | .idcode, .irTdi | .dpacc, .irTdi | .apacc, .irTdi | .abort, .irTdi | .unknown, .irTdi => false
  | .idcode, .drTdi | .dpacc, .drTdi | .apacc, .drTdi | .abort, .drTdi | .unknown, .drTdi => true
  | .idcode, .drTdo | .dpacc, .drTdo | .apacc, .drTdo | .abort, .drTdo | .unknown, .drTdo => true
  | .code7, .irTdi | .code7, .drTdi | .code7, .drTdo => false
  | _, .reserved => false

/-- What an accepted command emits, in order, by the state it finds (R204, R206, R208, R209, R212, R215). -/
def jtPayloads (st : JtSt) (c : JtCommand) : List JtPayload :=
  let v := normVector c
  match st with
  | .idle => [.irSelect (irTable (patternField v))]
  | .bypass => [.bypassRaw c.len v]
  | .idcode => [.idcode c.len v]
  | .dpacc => [.dataIn .dpacc (dataField v) (addrField v) (rnwField v), .dataOut .dpacc (dataField v) (ackField v)]
  | .apacc => [.dataIn .apacc (dataField v) (addrField v) (rnwField v), .dataOut .apacc (dataField v) (ackField v)]
  | .abort =>
    if abortReservedField v = 0 then [.abortStatus (dapabortField v)]
    else [.abortStatus (dapabortField v), .abortReservedWarn]
  | .unknown => [.unknownDiag c.len v]
  | .code7 => []

/-- The state after an accepted command: the selected register from `Idle` (R204), else `Idle` (R217). -/
def jtNext (st : JtSt) (c : JtCommand) : JtSt :=
  match st with
  | .idle => irTable (patternField (normVector c))
  | _ => .idle

/-- `JT_CMD` (R201): discarded while halted (R222), a fault on the malformed state (R221), ignored if the state does
not accept it (R216). -/
def State.jtCommand (s : State) (sel : JtSelector) (c : JtCommand) : State :=
  if s.jt.fault then s.quiet
  else if s.jt.st = .code7 then s.takeFault .internalConsistencyError
  else if jtAccepts s.jt.st sel then
    s.jtFinish { s.jt with st := jtNext s.jt.st c } c (jtPayloads s.jt.st c)
  else s.quiet

/-- `JT_CMD "IR TDI"` (R201). -/
def execJtCmdIrTdi (c : JtCommand) (s : State) : Host.Outcome State Fault Refusal := .next (s.jtCommand .irTdi c)

/-- `JT_CMD "DR TDI"` (R201). -/
def execJtCmdDrTdi (c : JtCommand) (s : State) : Host.Outcome State Fault Refusal := .next (s.jtCommand .drTdi c)

/-- `JT_CMD "DR TDO"` (R201). -/
def execJtCmdDrTdo (c : JtCommand) (s : State) : Host.Outcome State Fault Refusal := .next (s.jtCommand .drTdo c)

/-- `JT_CMD` with the reserved selector (R201, R216). -/
def execJtCmdReservedSelector (c : JtCommand) (s : State) : Host.Outcome State Fault Refusal :=
  .next (s.jtCommand .reserved c)

/-- `"IR TDI"` with pattern 1111 (R88). -/
def execIrBypass (t : IrVector) (s : State) : Host.Outcome State Fault Refusal :=
  .next (s.jtCommand .irTdi (irCommand 0b1111#4 t))

/-- `"IR TDI"` with pattern 1110 (R88). -/
def execIrIdcode (t : IrVector) (s : State) : Host.Outcome State Fault Refusal :=
  .next (s.jtCommand .irTdi (irCommand 0b1110#4 t))

/-- `"IR TDI"` with pattern 1010 (R88). -/
def execIrDpacc (t : IrVector) (s : State) : Host.Outcome State Fault Refusal :=
  .next (s.jtCommand .irTdi (irCommand 0b1010#4 t))

/-- `"IR TDI"` with pattern 1011 (R88). -/
def execIrApacc (t : IrVector) (s : State) : Host.Outcome State Fault Refusal :=
  .next (s.jtCommand .irTdi (irCommand 0b1011#4 t))

/-- `"IR TDI"` with pattern 1000 (R88). -/
def execIrAbort (t : IrVector) (s : State) : Host.Outcome State Fault Refusal :=
  .next (s.jtCommand .irTdi (irCommand 0b1000#4 t))

/-- `"IR TDI"` with one of the eleven patterns outside the table (R88, R204). -/
def execIrUnknown (pattern : BitVec 4) (t : IrVector) (s : State) : Host.Outcome State Fault Refusal :=
  .next (s.jtCommand .irTdi (irCommand pattern t))

/-- A `"DR TDI"` for `Bypass` (R206). In another state the command is what R201 makes of it there (log entry 2). -/
def execDrBypass (c : JtCommand) (s : State) : Host.Outcome State Fault Refusal := .next (s.jtCommand .drTdi c)

/-- A data transfer for `IdCode` (R208); in another state as R201 says (log entry 2). -/
def execDrIdcode (line : DrLine) (c : JtCommand) (s : State) : Host.Outcome State Fault Refusal :=
  .next (s.jtCommand (lineSelector line) c)

/-- A data transfer for `Dpacc` (R209); in another state as R201 says (log entry 2). -/
def execDrDpacc (line : DrLine) (c : JtCommand) (s : State) : Host.Outcome State Fault Refusal :=
  .next (s.jtCommand (lineSelector line) c)

/-- A data transfer for `Apacc` (R209); in another state as R201 says (log entry 2). -/
def execDrApacc (line : DrLine) (c : JtCommand) (s : State) : Host.Outcome State Fault Refusal :=
  .next (s.jtCommand (lineSelector line) c)

/-- A data transfer for `Abort` (R212); in another state as R201 says (log entry 2). -/
def execDrAbort (line : DrLine) (c : JtCommand) (s : State) : Host.Outcome State Fault Refusal :=
  .next (s.jtCommand (lineSelector line) c)

/-- A data transfer for `Unknown` (R215); in another state as R201 says (log entry 2). -/
def execDrUnknown (line : DrLine) (c : JtCommand) (s : State) : Host.Outcome State Fault Refusal :=
  .next (s.jtCommand (lineSelector line) c)

end Sys2Proof.Machine
end

