-- ==== Sys2Proof/Machine/Reset.lean ====
section
/-! DEFINITION. The `reset` row: the pin `rst` at a rising clock edge (`70_reset_and_hazards.md` R260). -/

namespace Sys2Proof.Machine

/-- `reset` (R99, R260). -/
def execReset (s : State) : Host.Outcome State Fault Refusal := .next s.pinReset

end Sys2Proof.Machine
end

