-- ==== Sys2Proof/Machine/Dispatch.lean ====
section
/-! DEFINITION. Which meaning each op has: one arm per row of `spec/opcode_table.json`. -/

namespace Sys2Proof.Machine

def exec (i : Instr) (s : State) : Host.Outcome State Fault Refusal :=
  match i with
  | .emCfgPolarity activeLow => Sys2Proof.Machine.execEmCfgPolarity activeLow s
  | .emCfgDatarate code => Sys2Proof.Machine.execEmCfgDatarate code s
  | .emCfgCoilfreq coil => Sys2Proof.Machine.execEmCfgCoilfreq coil s
  | .emSetSamplerate rate => Sys2Proof.Machine.execEmSetSamplerate rate s
  | .emBatch bstart bend => Sys2Proof.Machine.execEmBatch bstart bend s
  | .emSample position level => Sys2Proof.Machine.execEmSample position level s
  | .emReserved6 => Sys2Proof.Machine.execEmReserved6 s
  | .emReserved7 => Sys2Proof.Machine.execEmReserved7 s
  | .jtCmdIrTdi c => Sys2Proof.Machine.execJtCmdIrTdi c s
  | .jtCmdDrTdi c => Sys2Proof.Machine.execJtCmdDrTdi c s
  | .jtCmdDrTdo c => Sys2Proof.Machine.execJtCmdDrTdo c s
  | .jtCmdReservedSelector c => Sys2Proof.Machine.execJtCmdReservedSelector c s
  | .irBypass t => Sys2Proof.Machine.execIrBypass t s
  | .irIdcode t => Sys2Proof.Machine.execIrIdcode t s
  | .irDpacc t => Sys2Proof.Machine.execIrDpacc t s
  | .irApacc t => Sys2Proof.Machine.execIrApacc t s
  | .irAbort t => Sys2Proof.Machine.execIrAbort t s
  | .irUnknown pattern t => Sys2Proof.Machine.execIrUnknown pattern t s
  | .drBypass c => Sys2Proof.Machine.execDrBypass c s
  | .drIdcode line c => Sys2Proof.Machine.execDrIdcode line c s
  | .drDpacc line c => Sys2Proof.Machine.execDrDpacc line c s
  | .drApacc line c => Sys2Proof.Machine.execDrApacc line c s
  | .drAbort line c => Sys2Proof.Machine.execDrAbort line c s
  | .drUnknown line c => Sys2Proof.Machine.execDrUnknown line c s
  | .datarate64 => Sys2Proof.Machine.execDatarate64 s
  | .datarate32 => Sys2Proof.Machine.execDatarate32 s
  | .datarate16 => Sys2Proof.Machine.execDatarate16 s
  | .datarateReserved => Sys2Proof.Machine.execDatarateReserved s
  | .reset => Sys2Proof.Machine.execReset s

end Sys2Proof.Machine
end

