-- ==== Sys2Proof/Machine/Step.lean ====
section
/-! DEFINITION. One step: the host's next op, decoded and run. -/

namespace Sys2Proof.Machine

/-- One step. With no op presented the step is a cycle with no op (R100); otherwise the next op of the host's
stream is consumed (R63), decoded and performed whole (R65). A record that is no op is refused. -/
def step (s : State) : Host.Outcome State Fault Refusal :=
  match s.consume with
  | none => .next s.idleCycle
  | some (w, s') =>
    match decode w with
    | .ok i => exec i s'
    | .error reason => .refused (.undecodable reason)

/-- `s` with an op-table word presented as the host's next op (log entries 3 and 4). -/
def State.withFetchWord (s : State) (nbits w : Nat) : State := s.present (tableWord nbits w)

end Sys2Proof.Machine
end

