-- ==== Sys2Proof/Safety.lean ====
section
/-! DEFINITION. What counts as a good state and a good run, in the terms the statements use: the invariants of
`10_state.md` R49 and `41_em_edge_pulse.md` R155, and the run flags of `70_reset_and_hazards.md` R276. -/

namespace Sys2Proof.Machine

/-- The frame invariants of R49. -/
structure EmRegs.FrameInv (e : EmRegs) : Prop where
  run_le : e.run ≤ 8
  pcnt_le : e.pcnt ≤ 49
  tcnt_le : e.tcnt ≤ 4
  run_header : 0 < e.run → e.fs = .header
  pcnt_payload : 0 < e.pcnt → e.fs = .payload
  tcnt_trailer : 0 < e.tcnt → e.fs = .trailer
  group_clear : e.pcnt % 5 = 0 → e.nib = 0#4 ∧ e.rpar = false
  header_clear : e.fs = .header → e.col = .zero ∧ e.tb = .zero
  tb_clear : e.fs ≠ .trailer → e.tb = .zero

/-- The edge-tracking invariants: the previous pulse and the anchor lie at or after position 0 and at or before the
last edge (R155; "`pp - opl >= 0`"), and both are 0 before the first sample (R30, R48). -/
structure EmRegs.TrackInv (e : EmRegs) : Prop where
  fresh : e.havePrev = false → e.prevPos = 0#64 ∧ e.oldpl = 0#64 ∧ e.lastBitPos = 0#64
  oldpl_le : e.oldpl ≤ e.prevPos
  anchor_le : e.lastBitPos ≤ e.prevPos

/-- `em.coil ≥ 1` (R49). -/
def EmRegs.CoilInv (e : EmRegs) : Prop := e.coil ≠ 0#32

/-- `jt.st` is one of the seven declared states and `jt.fault = 0` (R49). -/
def JtRegs.Inv (j : JtRegs) : Prop := j.st ≠ .code7 ∧ j.fault = false

/-- The invariants of R49 that hold "between ops from reset onward", with those of R155. (`em.datarate ∈ {64, 32,
16}` holds by the register's type; the clause on `em.batch_ok` speaks of the past and is `State.BatchInv`.) -/
structure State.Inv (s : State) : Prop where
  frame : s.em.FrameInv
  track : s.em.TrackInv
  coil : s.em.CoilInv
  jt : s.jt.Inv

/-- `em.batch_ok = 1` implies `em.samplerate ≠ 0` (R49, R268): every op but `EM_SET_SAMPLERATE 0` keeps it. -/
def State.BatchInv (s : State) : Prop := s.em.batchOk = true → s.em.samplerate ≠ 0#32

/-- A state of a run that lost no batch and no JT command (R276). -/
def State.NothingLost (s : State) : Prop := s.em.cfgFault = false ∧ s.jt.fault = false

/-- The outcome is no stop. -/
def Completes (o : Host.Outcome State Fault Refusal) : Prop := ∃ t, o = .next t

/-! ### Which unit an op is for -/

/-- The op is one of the EM unit's. -/
def isEmOp : Instr → Bool
  | .emCfgPolarity _ | .emCfgDatarate _ | .emCfgCoilfreq _ | .emSetSamplerate _ | .emBatch _ _ | .emSample _ _
  | .emReserved6 | .emReserved7 | .datarate64 | .datarate32 | .datarate16 | .datarateReserved => true
  | .jtCmdIrTdi _ | .jtCmdDrTdi _ | .jtCmdDrTdo _ | .jtCmdReservedSelector _ | .irBypass _ | .irIdcode _
  | .irDpacc _ | .irApacc _ | .irAbort _ | .irUnknown _ _ | .drBypass _ | .drIdcode _ _ | .drDpacc _ _
  | .drApacc _ _ | .drAbort _ _ | .drUnknown _ _ | .reset => false

/-- The op loads a JTAG instruction: an `"IR TDI"` command. -/
def isIrLoad : Instr → Bool
  | .jtCmdIrTdi _ | .irBypass _ | .irIdcode _ | .irDpacc _ | .irApacc _ | .irAbort _ | .irUnknown _ _ => true
  | .emCfgPolarity _ | .emCfgDatarate _ | .emCfgCoilfreq _ | .emSetSamplerate _ | .emBatch _ _ | .emSample _ _
  | .emReserved6 | .emReserved7 | .datarate64 | .datarate32 | .datarate16 | .datarateReserved
  | .jtCmdDrTdi _ | .jtCmdDrTdo _ | .jtCmdReservedSelector _ | .drBypass _ | .drIdcode _ _ | .drDpacc _ _
  | .drApacc _ _ | .drAbort _ _ | .drUnknown _ _ | .reset => false

/-- The op is a data-register transfer: a `"DR TDI"` or `"DR TDO"` command. -/
def isTransfer : Instr → Bool
  | .jtCmdDrTdi _ | .jtCmdDrTdo _ | .drBypass _ | .drIdcode _ _ | .drDpacc _ _ | .drApacc _ _ | .drAbort _ _
  | .drUnknown _ _ => true
  | .emCfgPolarity _ | .emCfgDatarate _ | .emCfgCoilfreq _ | .emSetSamplerate _ | .emBatch _ _ | .emSample _ _
  | .emReserved6 | .emReserved7 | .datarate64 | .datarate32 | .datarate16 | .datarateReserved
  | .jtCmdIrTdi _ | .irBypass _ | .irIdcode _ | .irDpacc _ | .irApacc _ | .irAbort _ | .irUnknown _ _
  | .jtCmdReservedSelector _ | .reset => false

/-- The op is a transfer from the line `"DR TDO"`: the command, or a layout row on that line. -/
def isTdoTransfer : Instr → Bool
  | .jtCmdDrTdo _ => true
  | .drIdcode line _ | .drDpacc line _ | .drApacc line _ | .drAbort line _ | .drUnknown line _ => line == .tdo
  | .jtCmdDrTdi _ | .drBypass _
  | .emCfgPolarity _ | .emCfgDatarate _ | .emCfgCoilfreq _ | .emSetSamplerate _ | .emBatch _ _ | .emSample _ _
  | .emReserved6 | .emReserved7 | .datarate64 | .datarate32 | .datarate16 | .datarateReserved
  | .jtCmdIrTdi _ | .irBypass _ | .irIdcode _ | .irDpacc _ | .irApacc _ | .irAbort _ | .irUnknown _ _
  | .jtCmdReservedSelector _ | .reset => false

/-- The op is one of the JT unit's. -/
def isJtOp (i : Instr) : Bool :=
  match i with
  | .jtCmdReservedSelector _ => true
  | i => isIrLoad i || isTransfer i

/-! ### What an op leaves, field by field -/

/-- `t` is `s` after an op without effect: every register, both streams and the host's ops are as before, and
both ports are quiet. -/
structure NoEffect (s t : State) : Prop where
  em : t.em = s.em
  jt : t.jt = s.jt
  pending : t.pending = s.pending
  emPort : t.emPort = .idle
  jtPort : t.jtPort = .idle
  emStream : t.emStream = s.emStream
  jtStream : t.jtStream = s.jtStream

/-- `t` is `s` after an EM op that leaves the registers `regs` and emits `anns`: on its port, coded, and at the end
of its stream. Nothing of the JT unit changes. -/
structure EmEffect (s t : State) (regs : EmRegs) (anns : List EmAnnotation) : Prop where
  em : t.em = regs
  jt : t.jt = s.jt
  pending : t.pending = s.pending
  count : t.emPort.count.toNat = anns.length
  slots : t.emPort.slots = anns.map EmAnnotation.slot
  noFault : t.emPort.faultCode = 0#2
  jtPort : t.jtPort = .idle
  emStream : t.emStream = s.emStream ++ anns
  jtStream : t.jtStream = s.jtStream

/-- `t` is `s` after a JT op that leaves the state `st` and emits the payloads, each with the range of the command.
Nothing of the EM unit changes. -/
structure JtEffect (s t : State) (st : JtSt) (c : JtCommand) (payloads : List JtPayload) : Prop where
  em : t.em = s.em
  st : t.jt.st = st
  fault : t.jt.fault = s.jt.fault
  pending : t.pending = s.pending
  count : t.jtPort.count.toNat = payloads.length
  ranges : t.jtPort.slots.map (fun x => (x.start, x.stop)) = payloads.map fun _ => (c.start, c.stop)
  kinds : t.jtPort.slots.map (fun x => x.kind) = payloads.map JtPayload.kind
  noFault : t.jtPort.faultCode = 0#2
  emPort : t.emPort = .idle
  emStream : t.emStream = s.emStream
  jtStream : t.jtStream = s.jtStream ++ payloads.map fun p => ⟨c.start, c.stop, p⟩

/-- The value of the normalised vector `val mod 2^len` (R202). -/
def vectorValue (c : JtCommand) : Nat := c.val.toNat % 2 ^ c.len.toNat

/-- An `EM_SAMPLE` with these operands is an edge in an open batch, in the order the host owes (R70, R144). -/
structure AtEdge (s : State) (position : Pos) (level : Bool) : Prop where
  batch : s.em.batchOk = true
  seen : s.em.havePrev = true
  changed : level ≠ s.em.prevLevel
  later : s.em.prevPos < position

/-- The tracking update of every edge (R153). -/
def EmRegs.afterEdge (e : EmRegs) (position : Pos) (level : Bool) : EmRegs :=
  { e with oldpl := position - e.prevPos, prevPos := position, prevLevel := level }

/-- `t` is `s` after an EM op that left the registers `e` and then handed the symbol `(value, start, stop)` to
`FrameStep` (R154). -/
def HandsOver (s t : State) (e : EmRegs) (value : Bool) (start stop : Nat) : Prop :=
  ∃ sym : BitSymbol, sym.value = value ∧ sym.start.toNat = start ∧ sym.stop.toNat = stop ∧
    EmEffect s t (e.frameStep sym).1 (e.frameStep sym).2

/-! ### Runs of the frame state machine -/

/-- A list of symbols taken by `FrameStep` one after another, with all that they emit in order. -/
def EmRegs.frameRun (e : EmRegs) : List BitSymbol → EmRegs × List EmAnnotation
  | [] => (e, [])
  | sym :: rest =>
    let first := e.frameStep sym
    let later := first.1.frameRun rest
    (later.1, first.2 ++ later.2)

/-- Every frame register but the five position registers is at its reset value (R188). -/
structure EmRegs.FrameAtRest (e : EmRegs) : Prop where
  fs : e.fs = .header
  run : e.run = 0
  pcnt : e.pcnt = 0
  nib : e.nib = 0#4
  rpar : e.rpar = false
  col : e.col = .zero
  tcnt : e.tcnt = 0
  tb : e.tb = .zero

/-- The value of the `k`-th symbol of a group or trailer. -/
def bitAt (g : List BitSymbol) (k : Nat) : Bool := ((g[k]?).map BitSymbol.value).getD false

/-- "XOR of the 4 data bits equals the parity bit" (R180). -/
def rowOk (g : List BitSymbol) : Bool := (bitAt g 0 ^^ bitAt g 1 ^^ bitAt g 2 ^^ bitAt g 3) == bitAt g 4

/-- The nibble of a group, first-arrived bit most significant (R177). -/
def nibbleOf (g : List BitSymbol) : Nat :=
  8 * (bitAt g 0).toNat + 4 * (bitAt g 1).toNat + 2 * (bitAt g 2).toNat + (bitAt g 3).toNat

/-- The exclusive or of data bit `k` over the groups (R186). -/
def columnXor (groups : List (List BitSymbol)) (k : Nat) : Bool := groups.foldl (fun x g => x ^^ bitAt g k) false

/-- The payloads of the annotations of one category, in order. -/
def payloadsOf (cat : EmCat) (anns : List EmAnnotation) : List (BitVec 4) :=
  (anns.filter fun a => a.cat == cat).map EmAnnotation.payload

/-- A one-bit payload as a number. -/
def bitWord (b : Bool) : BitVec 4 := BitVec.ofNat 4 b.toNat

end Sys2Proof.Machine
end

