-- ==== Sys2Proof/Certificates/Slice0/Obligations.lean ====
section
/-! DEFINITION. The statements for the provers. Each says which rule of spec/ it formalises. A clause that rests on
a choice of the model names its log entry. -/

open Sys2Proof Sys2Proof.Machine

/-! ### Steps, decoding, encoding -/

/-- A step performs the next op the host presents: it consumes the record once and answers what `exec` answers for
the op the record decodes to (R63, R65); with nothing presented it is a cycle with no op (R100, R101). The record and
the list of presented ops are the model's own (log entries 1 and 4). -/
def Obligations.StepPerformsTheNextOp : Prop :=
  (∀ (s : State) (w : OpWord) (rest : List OpWord) (i : Instr), s.pending = w :: rest → decode w = .ok i →
    step s = exec i { s with pending := rest }) ∧
  (∀ s : State, s.pending = [] → ∃ t, step s = .next t ∧ NoEffect s t)

/-- Written-out records of four formats decode to the ops they stand for: op codes, selector codes and operands by
R82, R85 to R88, R104; the places of the fields by log entry 1. -/
def Obligations.WrittenWordsDecode : Prop :=
  decode (BitVec.ofNat 208 (0b101 + 1256 * 2 ^ 16 + 1 * 2 ^ 80)) = .ok (.emSample 1256#64 true) ∧
  decode (BitVec.ofNat 208 (0b011 + 1000000 * 2 ^ 16)) = .ok (.emSetSamplerate 1000000#32) ∧
  decode (BitVec.ofNat 208 (0b00 + 2 * 2 ^ 3 + 4 * 2 ^ 8 + 0b1110 * 2 ^ 16 + 100 * 2 ^ 80 + 140 * 2 ^ 144)) =
    .ok (.jtCmdIrTdi ⟨4#7, 0b1110#64, 100#64, 140#64⟩) ∧
  decode (BitVec.ofNat 208 0b1010) = .ok (.irDpacc ⟨0#6, 0#60, 0#64, 0#64⟩)

/-- Decode and encode agree for every op that can be presented, with every operand at every value (R82, R86 to R88;
the record's layout is log entry 1's). -/
def Obligations.DecodeInvertsEncode : Prop :=
  ∀ i : Instr, i.wellFormed = true → decode (encode i) = .ok i

/-- Whatever decodes can be presented: no record yields a vector longer than `BITS_W` or an `IR_UNKNOWN` with a known
pattern (R86, R88, R271). -/
def Obligations.DecodedOpsAreWellFormed : Prop :=
  ∀ (w : OpWord) (i : Instr), decode w = .ok i → i.wellFormed = true

/-- The eight `em_op` codes with their operands, and "unused operand bits are ignored": `a` and `b` are arbitrary,
and so are the record's other bits `j` and `z` (R81, R82; their places are log entry 1's). -/
def Obligations.EmOpCodesDecode : Prop :=
  ∀ (a b z : BitVec 64) (j : BitVec 8),
    let w := fun code : Nat =>
      BitVec.ofNat 208 (code + j.toNat * 2 ^ 8 + a.toNat * 2 ^ 16 + b.toNat * 2 ^ 80 + z.toNat * 2 ^ 144)
    decode (w 0b000) = .ok (.emCfgPolarity (decide (a.toNat % 2 = 1))) ∧
    decode (w 0b001) = .ok (.emCfgDatarate (BitVec.ofNat 2 a.toNat)) ∧
    decode (w 0b010) = .ok (.emCfgCoilfreq (BitVec.ofNat 32 a.toNat)) ∧
    decode (w 0b011) = .ok (.emSetSamplerate (BitVec.ofNat 32 a.toNat)) ∧
    decode (w 0b100) = .ok (.emBatch a b) ∧
    decode (w 0b101) = .ok (.emSample a (decide (b.toNat % 2 = 1))) ∧
    decode (w 0b110) = .ok .emReserved6 ∧
    decode (w 0b111) = .ok .emReserved7

/-- The four `register_select` codes of R87 with the operands of R86; a length above `BITS_W` is refused, since it
"cannot be presented" (R271). The places of the fields are log entry 1's. -/
def Obligations.JtSelectorCodesDecode : Prop :=
  ∀ (c : JtCommand),
    let w := fun sel : Nat =>
      BitVec.ofNat 208 (sel + 2 * 2 ^ 3 + c.len.toNat * 2 ^ 8 + c.val.toNat * 2 ^ 16 + c.start.toNat * 2 ^ 80 +
        c.stop.toNat * 2 ^ 144)
    (c.len.toNat ≤ 64 →
      decode (w 0b00) = .ok (.jtCmdIrTdi c) ∧ decode (w 0b01) = .ok (.jtCmdDrTdi c) ∧
      decode (w 0b10) = .ok (.jtCmdDrTdo c) ∧ decode (w 0b11) = .ok (.jtCmdReservedSelector c)) ∧
    (64 < c.len.toNat → ∀ sel < 4, decode (w sel) = .error .vectorTooLong)

/-- With the reset pin high the next step resets the machine "whatever the op ports carry" (R99): every other bit of
the record is arbitrary. The pin's place in the record is log entry 1's. -/
def Obligations.ResetPinOverridesEveryOp : Prop :=
  ∀ (s : State) (w : OpWord) (rest : List OpWord), s.pending = w :: rest → w.getLsbD 7 = true →
    ∃ t, step s = .next t ∧ t.em = EmRegs.reset ∧ t.jt = JtRegs.reset ∧ t.pending = rest ∧
      t.emPort = .idle ∧ t.jtPort = .idle ∧ t.emStream = s.emStream ∧ t.jtStream = s.jtStream

/-! ### Reset -/

/-- `reset` completes in every state and leaves every register at the value of the table of R48; it emits nothing and
raises nothing (R260). That the streams and the ops still to come, which are the host's, stay is the model's choice
(log entry 6; R64: an annotation is never withdrawn). -/
def Obligations.ResetWritesTheResetTable : Prop :=
  ∀ s : State, ∃ t, exec .reset s = .next t ∧
    t.em = { polLow := false, datarate := .r64, coil := 125000#32, samplerate := 0#32, batchOk := false,
             cfgFault := false, havePrev := false, prevLevel := false, prevPos := 0#64, oldpl := 0#64,
             lastBitPos := 0#64, fs := .header, run := 0, hstart := 0#64, pcnt := 0, nib := 0#4, rpar := false,
             col := ⟨false, false, false, false⟩, gstart := 0#64, dstop := 0#64, tcnt := 0,
             tb := ⟨false, false, false, false⟩, tstart := 0#64, tstop := 0#64 } ∧
    t.jt = { st := .idle, fault := false } ∧
    State.reset.em = t.em ∧ State.reset.jt = t.jt ∧
    t.emPort = .idle ∧ t.jtPort = .idle ∧ t.emStream = s.emStream ∧ t.jtStream = s.jtStream ∧ t.pending = s.pending

/-! ### Configuration and batch begin -/

/-- Polarity, coil frequency and sample rate: each op completes in every state, writes its one register and nothing
else, emits nothing and raises nothing; coil frequency zero is ignored, sample rate zero is stored (R125, R127,
R128). -/
def Obligations.ConfigOpsWriteTheirRegister : Prop :=
  ∀ s : State,
    (∀ b, ∃ t, exec (.emCfgPolarity b) s = .next t ∧ EmEffect s t { s.em with polLow := b } []) ∧
    (∀ f, f ≠ 0#32 → ∃ t, exec (.emCfgCoilfreq f) s = .next t ∧ EmEffect s t { s.em with coil := f } []) ∧
    (∃ t, exec (.emCfgCoilfreq 0#32) s = .next t ∧ NoEffect s t) ∧
    (∀ r, ∃ t, exec (.emSetSamplerate r) s = .next t ∧ EmEffect s t { s.em with samplerate := r } [])

/-- Polarity "changes the value of later symbols only, not their boundaries" (R125): for every arm and position, the
arm that fires and the symbol's range are as before and its value is the previous level, inverted if active-low. -/
def Obligations.PolarityChangesOnlyTheSymbolValue : Prop :=
  ∀ (e : EmRegs) (b : Bool) (arm : Arm) (position : Pos),
    let e' := { e with polLow := b }
    e'.edgeArm position = e.edgeArm position ∧
    (e'.symbolOf arm position).start = (e.symbolOf arm position).start ∧
    (e'.symbolOf arm position).stop = (e.symbolOf arm position).stop ∧
    (e'.symbolOf arm position).value = (if b then !e.prevLevel else e.prevLevel)

/-- The datarate codes `00` = 64, `01` = 32, `10` = 16 and the reserved `11`, which leaves the register unchanged
(R85, R126), by `EM_CFG_DATARATE` and by the four rows of the op table that name a code (as ops the model's choice,
log entry 2). -/
def Obligations.DatarateCodesWriteTheirValue : Prop :=
  ∀ s : State,
    (∀ i ∈ [Instr.emCfgDatarate 0b00#2, .datarate64], ∃ t, exec i s = .next t ∧
      EmEffect s t { s.em with datarate := .r64 } [] ∧ t.em.datarate.value = 64) ∧
    (∀ i ∈ [Instr.emCfgDatarate 0b01#2, .datarate32], ∃ t, exec i s = .next t ∧
      EmEffect s t { s.em with datarate := .r32 } [] ∧ t.em.datarate.value = 32) ∧
    (∀ i ∈ [Instr.emCfgDatarate 0b10#2, .datarate16], ∃ t, exec i s = .next t ∧
      EmEffect s t { s.em with datarate := .r16 } [] ∧ t.em.datarate.value = 16) ∧
    (∀ i ∈ [Instr.emCfgDatarate 0b11#2, .datarateReserved], ∃ t, exec i s = .next t ∧ NoEffect s t)

/-- `EM_BATCH` (R129): with the sample rate set it opens the batch and does nothing else; with the sample rate unset
it closes the batch, sets the sticky flag, presents fault code 1, emits nothing and changes nothing else, and every
sample that follows is discarded. The bounds are not read. Its code is
`100`; the places of the record's fields are the model's choice (log entry 1). -/
def Obligations.BatchChecksTheSampleRate : Prop :=
  (∀ w : OpWord, w.rst = 0#1 → w.form = 0#4 → w.code = 0b100#3 → decode w = .ok (.emBatch w.x w.y)) ∧
  ∀ (s : State) (bstart bend : Pos),
    (s.em.samplerate ≠ 0#32 → ∃ t, exec (.emBatch bstart bend) s = .next t ∧
      EmEffect s t { s.em with batchOk := true } []) ∧
    (s.em.samplerate = 0#32 → ∃ t, exec (.emBatch bstart bend) s = .next t ∧
      t.em = { s.em with batchOk := false, cfgFault := true } ∧ t.emPort = ⟨0#3, [], 1#2⟩ ∧
      t.jt = s.jt ∧ t.jtPort = .idle ∧ t.emStream = s.emStream ∧ t.jtStream = s.jtStream ∧ t.pending = s.pending ∧
      ∀ position level, ∃ t', exec (.emSample position level) t = .next t' ∧ NoEffect t t')

/-- The reserved EM op codes `110` and `111`, whatever the operands: "No register changes, no annotation is emitted,
no fault is raised" (R130). The places of the record's fields are the model's choice (log entry 1). -/
def Obligations.ReservedEmOpsDoNothing : Prop :=
  (∀ w : OpWord, w.rst = 0#1 → w.form = 0#4 →
    (w.code = 0b110#3 → decode w = .ok .emReserved6) ∧ (w.code = 0b111#3 → decode w = .ok .emReserved7)) ∧
  ∀ (s : State), ∀ i ∈ [Instr.emReserved6, .emReserved7], ∃ t, exec i s = .next t ∧ NoEffect s t

/-! ### Timing derivation -/

/-- `T_cmp` is the comparison with the exact rational `half_bit_threshold` (R121, R122, R124), and a tie needs a
threshold that is an integer. -/
def Obligations.ClassIsComparisonWithThreshold : Prop :=
  ∀ (e : EmRegs) (x : Pos), e.CoilInv →
    (e.tCmp x = .short ↔ (x.toNat : Rat) < e.halfBitThreshold) ∧
    (e.tCmp x = .equal ↔ (x.toNat : Rat) = e.halfBitThreshold) ∧
    (e.tCmp x = .long ↔ e.halfBitThreshold < (x.toNat : Rat)) ∧
    (e.tCmp x = .equal → (4 * e.coil.toNat) ∣ (3 * e.samplerate.toNat * e.datarate.value))

/-- The source's worked example (R131): sample rate 1 000 000, coil 125 000, datarate 64 give a bit width of 512 and
a threshold of 384, and the seven classes the rule lists. -/
def Obligations.WorkedTimingExample : Prop :=
  ∀ e : EmRegs, e.samplerate = 1000000#32 → e.coil = 125000#32 → e.datarate = .r64 →
    e.bitWidth = 512 ∧ e.halfBitThreshold = 384 ∧
    e.tCmp 600#64 = .long ∧ e.tCmp 384#64 = .equal ∧ e.tCmp 383#64 = .short ∧ e.tCmp 385#64 = .long ∧
    e.tCmp 256#64 = .short ∧ e.tCmp 512#64 = .long ∧ e.tCmp 0#64 = .short

/-- Sample rate zero in mid-batch (R268): the threshold is 0, every pulse of length 1 or more is long, and length 0
is in the dead zone. -/
def Obligations.ZeroRateMakesEveryPulseLong : Prop :=
  ∀ (e : EmRegs) (x : Pos), e.CoilInv → e.samplerate = 0#32 →
    e.halfBitThreshold = 0 ∧ e.tCmp 0#64 = .equal ∧ (x ≠ 0#64 → e.tCmp x = .long)

/-! ### Samples and edges -/

/-- The batch gate (R143): while `em.batch_ok = 0` a sample is discarded whole. -/
def Obligations.SamplesOutsideABatchAreDiscarded : Prop :=
  ∀ (s : State) (position : Pos) (level : Bool), s.em.batchOk = false →
    ∃ t, exec (.emSample position level) s = .next t ∧ NoEffect s t

/-- Edge detection (R144): the very first sample only initialises the tracking registers; a sample that repeats the
level changes no register; and such a sample, inserted before any op, changes nothing of what that op does. -/
def Obligations.OnlyLevelChangesAreEdges : Prop :=
  ∀ (s : State) (position : Pos) (level : Bool), s.em.batchOk = true →
    (s.em.havePrev = false → ∃ t, exec (.emSample position level) s = .next t ∧
      EmEffect s t { s.em with havePrev := true, prevLevel := level, prevPos := position } []) ∧
    (s.em.havePrev = true → level = s.em.prevLevel → ∃ t, exec (.emSample position level) s = .next t ∧
      NoEffect s t ∧ ∀ i : Instr, exec i t = exec i s)

/-- Input out of order (R271): an edge whose position is not above `em.prev_pos` is refused, in every state with an
open batch; "A model must refuse it". -/
def Obligations.EdgesOutOfOrderAreRefused : Prop :=
  ∀ (s : State) (position : Pos) (level : Bool), s.em.batchOk = true → s.em.havePrev = true →
    level ≠ s.em.prevLevel → position.toNat ≤ s.em.prevPos.toNat →
    exec (.emSample position level) s = .refused .positionNotIncreasing

/-- The dead zone (R146, R153): an edge at which the current or the previous pulse equals the threshold emits nothing
and only updates the tracking registers. -/
def Obligations.DeadZoneEdgesEmitNothing : Prop :=
  ∀ (s : State) (position : Pos) (level : Bool), AtEdge s position level →
    s.em.tCmp (position - s.em.prevPos) = .equal ∨ s.em.tCmp s.em.oldpl = .equal →
    ∃ t, exec (.emSample position level) s = .next t ∧ EmEffect s t (s.em.afterEdge position level) []

/-- Long after long and long after short (R148, R149): the symbol's value and range, the tracking update of R153, the
anchor untouched, and the hand-off to `FrameStep`. -/
def Obligations.LongPulsesEmit : Prop :=
  ∀ (s : State) (position : Pos) (level : Bool), AtEdge s position level → s.em.TrackInv →
    s.em.tCmp (position - s.em.prevPos) = .long →
    let value := s.em.prevLevel ^^ s.em.polLow
    let pl := position.toNat - s.em.prevPos.toNat
    (s.em.tCmp s.em.oldpl = .long → ∃ t, exec (.emSample position level) s = .next t ∧
      HandsOver s t (s.em.afterEdge position level) value
        (s.em.prevPos.toNat - s.em.oldpl.toNat / 2) (position.toNat - pl / 2)) ∧
    (s.em.tCmp s.em.oldpl = .short → ∃ t, exec (.emSample position level) s = .next t ∧
      HandsOver s t (s.em.afterEdge position level) value
        (s.em.prevPos.toNat - s.em.oldpl.toNat) (position.toNat - pl / 2))

/-- Short after long and short after short (R150, R151): the symbol and the anchor if the arm fires; with the guard
of R151 false, no symbol and no write of the anchor. -/
def Obligations.ShortPulsesEmitAndAnchor : Prop :=
  ∀ (s : State) (position : Pos) (level : Bool), AtEdge s position level → s.em.TrackInv →
    s.em.tCmp (position - s.em.prevPos) = .short →
    let value := s.em.prevLevel ^^ s.em.polLow
    let anchored := { s.em.afterEdge position level with lastBitPos := position }
    (s.em.tCmp s.em.oldpl = .long → ∃ t, exec (.emSample position level) s = .next t ∧
      HandsOver s t anchored value (s.em.prevPos.toNat - s.em.oldpl.toNat / 2) position.toNat) ∧
    (s.em.tCmp s.em.oldpl = .short → s.em.lastBitPos.toNat ≤ s.em.prevPos.toNat - s.em.oldpl.toNat →
      ∃ t, exec (.emSample position level) s = .next t ∧
      HandsOver s t anchored value (s.em.prevPos.toNat - s.em.oldpl.toNat) position.toNat) ∧
    (s.em.tCmp s.em.oldpl = .short → s.em.prevPos.toNat - s.em.oldpl.toNat < s.em.lastBitPos.toNat →
      ∃ t, exec (.emSample position level) s = .next t ∧ EmEffect s t (s.em.afterEdge position level) [])

/-- Every symbol has `start <= pp < stop` (R155), in states with the tracking invariant. -/
def Obligations.SymbolsStraddleThePreviousEdge : Prop :=
  ∀ (e : EmRegs) (position : Pos) (arm : Arm), e.TrackInv → e.prevPos < position → e.edgeArm position = some arm →
    (e.symbolOf arm position).start.toNat ≤ e.prevPos.toNat ∧
    e.prevPos.toNat < (e.symbolOf arm position).stop.toNat ∧
    (e.symbolOf arm position).stop.toNat ≤ position.toNat

/-- `EM_SAMPLE` stops in no state that the tracking invariant and the host's ordering duty (R70) allow: it answers a
next state for every position and level that is no edge, and for every edge in order. Without the invariant an edge
in order stops exactly if its symbol would start before position 0 (the model's choice, log entry 10). -/
def Obligations.OrderedSamplesComplete : Prop :=
  (∀ (s : State) (position : Pos) (level : Bool), s.em.TrackInv →
    (s.em.havePrev = true → level ≠ s.em.prevLevel → s.em.prevPos < position) →
    Completes (exec (.emSample position level) s)) ∧
  (∀ (s : State) (position : Pos) (level : Bool), AtEdge s position level →
    (exec (.emSample position level) s = .fault .symbolBeforeOrigin ↔
      ∃ arm, s.em.edgeArm position = some arm ∧ s.em.prevPos.toNat < (arm.reach s.em.oldpl).toNat))

/-! ### The frame state machine -/

/-- Every symbol emits `BIT` with its own range and value, first of its op, in every state (R172). -/
def Obligations.EverySymbolEmitsItsBitFirst : Prop :=
  ∀ (e : EmRegs) (sym : BitSymbol), ∃ rest,
    (e.frameStep sym).2 = ⟨.bit, sym.start, sym.stop, bitWord sym.value⟩ :: rest ∧ ∀ a ∈ rest, a.cat ≠ .bit

/-- Symbols in state `Header` (R173, R174): a `1` that does not complete the header counts, and the first of a run is
the header candidate's start, which no later `1` of the run touches; a `0` clears the run and keeps `em.hstart`. -/
def Obligations.HeaderCountsConsecutiveOnes : Prop :=
  ∀ (e : EmRegs) (sym : BitSymbol), e.fs = .header →
    (sym.value = true → e.run < 8 → e.frameStep sym =
      ({ e with run := e.run + 1, hstart := if e.run = 0 then sym.start else e.hstart },
        [⟨.bit, sym.start, sym.stop, 1#4⟩])) ∧
    (sym.value = true → 1 ≤ e.run → (e.frameStep sym).1.hstart = e.hstart) ∧
    (sym.value = false → e.frameStep sym = ({ e with run := 0 }, [⟨.bit, sym.start, sym.stop, 0#4⟩]))

/-- Header found (R175): the ninth `1` emits `HEADER` from the candidate's start to its own stop, clears the run and
enters `Payload`; outside `Header` no symbol counts and none emits `HEADER`. -/
def Obligations.NinthOneMakesTheHeader : Prop :=
  ∀ (e : EmRegs) (sym : BitSymbol),
    (e.fs = .header → e.run = 8 → sym.value = true → e.frameStep sym =
      ({ e with run := 0, fs := .payload },
        [⟨.bit, sym.start, sym.stop, 1#4⟩, ⟨.header, e.hstart, sym.stop, 0#4⟩])) ∧
    (e.fs ≠ .header → (e.frameStep sym).1.run = e.run ∧ (e.frameStep sym).1.hstart = e.hstart ∧
      ∀ a ∈ (e.frameStep sym).2, a.cat ≠ .header)

/-- A payload data bit (R176, R177): shifted into the nibble, folded into the row parity and into its own column;
the first keeps the group's start, the fourth its stop; only `BIT` is emitted and nothing else changes. -/
def Obligations.DataBitsAccumulate : Prop :=
  ∀ (e : EmRegs) (sym : BitSymbol), e.fs = .payload → e.pcnt % 5 < 4 →
    let r := (e.frameStep sym).1
    (e.frameStep sym).2 = [⟨.bit, sym.start, sym.stop, bitWord sym.value⟩] ∧
    r.nib = BitVec.ofNat 4 (2 * e.nib.toNat + sym.value.toNat) ∧ r.rpar = (e.rpar ^^ sym.value) ∧
    (∀ k < 4, r.col.get k = if k = e.pcnt % 5 then (e.col.get k ^^ sym.value) else e.col.get k) ∧
    r.gstart = (if e.pcnt % 5 = 0 then sym.start else e.gstart) ∧
    r.dstop = (if e.pcnt % 5 = 3 then sym.stop else e.dstop) ∧ r.pcnt = e.pcnt + 1 ∧
    r = { e with nib := r.nib, rpar := r.rpar, col := r.col, gstart := r.gstart, dstop := r.dstop, pcnt := r.pcnt }

/-- The row-parity bit (R178, R179): `DATA`, `PARITY`, `ROWPAR_VERDICT` in this order with their ranges and payloads,
the group registers cleared, and the fiftieth bit enters `Trailer`. -/
def Obligations.ParityBitEndsTheGroup : Prop :=
  ∀ (e : EmRegs) (sym : BitSymbol), e.fs = .payload → e.pcnt % 5 = 4 →
    (e.frameStep sym).2 =
      [⟨.bit, sym.start, sym.stop, bitWord sym.value⟩, ⟨.data, e.gstart, e.dstop, e.nib⟩,
       ⟨.parity, sym.start, sym.stop, bitWord sym.value⟩,
       ⟨.rowparVerdict, sym.start, sym.stop, bitWord (decide (e.rpar = sym.value))⟩] ∧
    (e.frameStep sym).1 =
      if e.pcnt = 49 then { e with nib := 0#4, rpar := false, pcnt := 0, fs := .trailer }
      else { e with nib := 0#4, rpar := false, pcnt := e.pcnt + 1 }

/-- A column-parity bit (R183): kept as observed trailer bit `k`, the first keeps the field's start, the fourth its
stop; only `BIT` is emitted and nothing else changes. -/
def Obligations.TrailerBitsAreKept : Prop :=
  ∀ (e : EmRegs) (sym : BitSymbol), e.fs = .trailer → e.tcnt < 4 →
    let r := (e.frameStep sym).1
    (e.frameStep sym).2 = [⟨.bit, sym.start, sym.stop, bitWord sym.value⟩] ∧
    (∀ k < 4, r.tb.get k = if k = e.tcnt then sym.value else e.tb.get k) ∧
    r.tstart = (if e.tcnt = 0 then sym.start else e.tstart) ∧
    r.tstop = (if e.tcnt = 3 then sym.stop else e.tstop) ∧ r.tcnt = e.tcnt + 1 ∧
    r = { e with tb := r.tb, tstart := r.tstart, tstop := r.tstop, tcnt := r.tcnt }

/-- The stop bit (R184, R185): `COLPAR_FIELD`, `STOPBIT`, `COLPAR_VERDICT` in this order with their ranges and
payloads, the value of the stop bit not checked; then both arrays and the counter are cleared and the state is
`Header`. -/
def Obligations.StopBitEndsTheFrame : Prop :=
  ∀ (e : EmRegs) (sym : BitSymbol), e.fs = .trailer → e.tcnt = 4 →
    (e.frameStep sym).2 =
      [⟨.bit, sym.start, sym.stop, bitWord sym.value⟩,
       ⟨.colparField, e.tstart, e.tstop,
         BitVec.ofNat 4 (8 * (e.tb.get 0).toNat + 4 * (e.tb.get 1).toNat + 2 * (e.tb.get 2).toNat +
           (e.tb.get 3).toNat)⟩,
       ⟨.stopbit, sym.start, sym.stop, bitWord sym.value⟩,
       ⟨.colparVerdict, e.tstart, e.tstop, bitWord ([0, 1, 2, 3].all fun k => e.col.get k == e.tb.get k)⟩] ∧
    (e.frameStep sym).1 = { e with col := .zero, tb := .zero, tcnt := 0, fs := .header }

/-- `FrameStep` neither writes nor reads a configuration, status or edge-tracking register (R154, R170): with those
of another register set `e'` in their place it emits the same and leaves the same frame registers. And the steps
before it neither read nor write a frame register: with the frame registers of `e'` in place they pick the same arm
and build the same symbol, and the first sample and the tracking update leave the same tracking registers beside the
frame registers of `e'`. -/
def Obligations.FrameAndTrackingAreSeparate : Prop :=
  ∀ (e e' : EmRegs) (sym : BitSymbol) (arm : Arm) (position : Pos),
    let mix := fun (t f : EmRegs) =>
      { f with polLow := t.polLow, datarate := t.datarate, coil := t.coil, samplerate := t.samplerate,
               batchOk := t.batchOk, cfgFault := t.cfgFault, havePrev := t.havePrev, prevLevel := t.prevLevel,
               prevPos := t.prevPos, oldpl := t.oldpl, lastBitPos := t.lastBitPos }
    (mix e' e).frameStep sym = (mix e' (e.frameStep sym).1, (e.frameStep sym).2) ∧
    mix e (e.frameStep sym).1 = (e.frameStep sym).1 ∧
    (mix e e').edgeArm position = e.edgeArm position ∧ (mix e e').symbolOf arm position = e.symbolOf arm position ∧
    (∀ (fired : Option Arm) (level : Bool),
      (mix e e').track fired position level = mix (e.track fired position level) e' ∧
      (mix e e').firstSample position level = mix (e.firstSample position level) e')

/-- The row parity law (R180): from the start of a group, five symbols emit five `BIT`s, the nibble over the data
bits, the parity bit, and `OK` exactly if the exclusive or of the data bits equals the parity bit. -/
def Obligations.RowParityLaw : Prop :=
  ∀ (e : EmRegs) (d0 d1 d2 d3 p : BitSymbol), e.fs = .payload → e.pcnt % 5 = 0 → e.nib = 0#4 → e.rpar = false →
    (e.frameRun [d0, d1, d2, d3, p]).2 =
      [d0, d1, d2, d3, p].map (fun x => ⟨.bit, x.start, x.stop, bitWord x.value⟩) ++
      [⟨.data, d0.start, d3.stop, BitVec.ofNat 4 (nibbleOf [d0, d1, d2, d3, p])⟩,
       ⟨.parity, p.start, p.stop, bitWord p.value⟩,
       ⟨.rowparVerdict, p.start, p.stop, bitWord (rowOk [d0, d1, d2, d3, p])⟩]

/-- The whole-frame property (R188), for every 64 symbols `1^9 (4 data bits, parity)^10 (4 bits, stop)` at any
positions, from rest: 98 annotations with the counts of the rule, and every frame register but the five position
registers back at rest, the other registers as they were. -/
def Obligations.WholeFrameEmitsItsAnnotations : Prop :=
  ∀ (e : EmRegs) (header : List BitSymbol) (groups : List (List BitSymbol)) (trailer : List BitSymbol),
    e.FrameAtRest → header.length = 9 → (∀ x ∈ header, x.value = true) →
    groups.length = 10 → (∀ g ∈ groups, g.length = 5) → trailer.length = 5 →
    let r := e.frameRun (header ++ groups.flatten ++ trailer)
    r.2.length = 98 ∧
    (payloadsOf .bit r.2).length = 64 ∧ (payloadsOf .header r.2).length = 1 ∧
    (payloadsOf .data r.2).length = 10 ∧ (payloadsOf .parity r.2).length = 10 ∧
    (payloadsOf .rowparVerdict r.2).length = 10 ∧ (payloadsOf .colparField r.2).length = 1 ∧
    (payloadsOf .stopbit r.2).length = 1 ∧ (payloadsOf .colparVerdict r.2).length = 1 ∧
    r.1 = { e with hstart := r.1.hstart, gstart := r.1.gstart, dstop := r.1.dstop, tstart := r.1.tstart,
                   tstop := r.1.tstop }

/-- The contents of a frame's annotations (R180, R186, R188): the ten nibbles, the ten row verdicts by the row parity
law, and the column verdict, which is `OK` exactly if for each of the four columns the exclusive or of the ten data
bits equals the trailer bit. -/
def Obligations.FrameVerdictsFollowTheParityLaws : Prop :=
  ∀ (e : EmRegs) (header : List BitSymbol) (groups : List (List BitSymbol)) (trailer : List BitSymbol),
    e.FrameAtRest → header.length = 9 → (∀ x ∈ header, x.value = true) →
    groups.length = 10 → (∀ g ∈ groups, g.length = 5) → trailer.length = 5 →
    let r := e.frameRun (header ++ groups.flatten ++ trailer)
    payloadsOf .data r.2 = groups.map (fun g => BitVec.ofNat 4 (nibbleOf g)) ∧
    payloadsOf .parity r.2 = groups.map (fun g => bitWord (bitAt g 4)) ∧
    payloadsOf .rowparVerdict r.2 = groups.map (fun g => bitWord (rowOk g)) ∧
    payloadsOf .colparField r.2 = [BitVec.ofNat 4 (nibbleOf trailer)] ∧
    payloadsOf .stopbit r.2 = [bitWord (bitAt trailer 4)] ∧
    payloadsOf .colparVerdict r.2 = [bitWord ([0, 1, 2, 3].all fun k => columnXor groups k == bitAt trailer k)]

/-! ### The JT unit -/

/-- The instruction table (R88, R204): in `Idle` an `"IR TDI"` with pattern `v[3:0]` selects the table's state, or
`Unknown` for any other pattern, and names it in the one annotation it emits; a vector shorter than 4 bits selects
`Unknown`. -/
def Obligations.IdleSelectsByTheTable : Prop :=
  ∀ (s : State) (c : JtCommand), s.jt.fault = false → s.jt.st = .idle →
    ∃ t, exec (.jtCmdIrTdi c) s = .next t ∧
      let reg : JtSt :=
        if vectorValue c % 16 = 0b1111 then .bypass else if vectorValue c % 16 = 0b1110 then .idcode
        else if vectorValue c % 16 = 0b1010 then .dpacc else if vectorValue c % 16 = 0b1011 then .apacc
        else if vectorValue c % 16 = 0b1000 then .abort else .unknown
      JtEffect s t reg c [.irSelect reg] ∧ (c.len.toNat < 4 → reg = .unknown)

/-- The instruction-pattern rows of the op table (R88): in `Idle` each selects its own state, whatever bits stand
above the pattern. The six rows as ops are log entry 2's. -/
def Obligations.PatternRowsSelectTheirState : Prop :=
  ∀ (s : State) (t : IrVector), s.jt.fault = false → s.jt.st = .idle → t.wellFormed = true →
    (∃ s', exec (.irBypass t) s = .next s' ∧ JtEffect s s' .bypass (irCommand 0b1111#4 t) [.irSelect .bypass]) ∧
    (∃ s', exec (.irIdcode t) s = .next s' ∧ JtEffect s s' .idcode (irCommand 0b1110#4 t) [.irSelect .idcode]) ∧
    (∃ s', exec (.irDpacc t) s = .next s' ∧ JtEffect s s' .dpacc (irCommand 0b1010#4 t) [.irSelect .dpacc]) ∧
    (∃ s', exec (.irApacc t) s = .next s' ∧ JtEffect s s' .apacc (irCommand 0b1011#4 t) [.irSelect .apacc]) ∧
    (∃ s', exec (.irAbort t) s = .next s' ∧ JtEffect s s' .abort (irCommand 0b1000#4 t) [.irSelect .abort]) ∧
    (∀ p, knownPattern p = false →
      ∃ s', exec (.irUnknown p t) s = .next s' ∧ JtEffect s s' .unknown (irCommand p t) [.irSelect .unknown])

/-- Bypass decode (R206): a `"DR TDI"` in `Bypass` emits the raw vector with its length and returns to `Idle`; also
by the row `DR_BYPASS` (as an op the model's choice, log entry 2). -/
def Obligations.BypassEmitsTheRawVector : Prop :=
  ∀ (s : State) (c : JtCommand), s.jt.fault = false → s.jt.st = .bypass →
    ∀ i ∈ [Instr.jtCmdDrTdi c, .drBypass c], ∃ t, exec i s = .next t ∧
      JtEffect s t .idle c [.bypassRaw c.len (BitVec.ofNat 64 (vectorValue c))]

/-- IDCODE decode (R208): the unsigned value of the whole vector, whatever its length, by `"DR TDI"`, `"DR TDO"` and
the row `DR_IDCODE` (as an op the model's choice, log entry 2). -/
def Obligations.IdcodeEmitsTheWholeVector : Prop :=
  ∀ (s : State) (c : JtCommand), s.jt.fault = false → s.jt.st = .idcode →
    ∀ i ∈ [Instr.jtCmdDrTdi c, .jtCmdDrTdo c, .drIdcode .tdi c, .drIdcode .tdo c], ∃ t, exec i s = .next t ∧
      JtEffect s t .idle c [.idcode c.len (BitVec.ofNat 64 (vectorValue c))]

/-- DPACC and APACC decode (R209): both readings of the same vector, `DATA_IN` first, each tagged with the register,
by `"DR TDI"`, `"DR TDO"` and the two rows (as ops the model's choice, log entry 2). -/
def Obligations.AccessRegistersEmitBothReadings : Prop :=
  ∀ (s : State) (c : JtCommand), s.jt.fault = false →
    let v := vectorValue c
    let both := fun reg : JtSt =>
      [JtPayload.dataIn reg (BitVec.ofNat 32 (v / 8)) (BitVec.ofNat 2 (v / 2)) (decide (v % 2 = 1)),
       JtPayload.dataOut reg (BitVec.ofNat 32 (v / 8)) (BitVec.ofNat 3 v)]
    (s.jt.st = .dpacc → ∀ i ∈ [Instr.jtCmdDrTdi c, .jtCmdDrTdo c, .drDpacc .tdi c, .drDpacc .tdo c],
      ∃ t, exec i s = .next t ∧ JtEffect s t .idle c (both .dpacc)) ∧
    (s.jt.st = .apacc → ∀ i ∈ [Instr.jtCmdDrTdi c, .jtCmdDrTdo c, .drApacc .tdi c, .drApacc .tdo c],
      ∃ t, exec i s = .next t ∧ JtEffect s t .idle c (both .apacc))

/-- ABORT decode (R212): `DAPABORT` is bit 0; a warning follows exactly if one of bits 1 to 31 is set; bits 32 and up
are not examined. By `"DR TDI"`, `"DR TDO"` and the row `DR_ABORT` (as an op the model's choice, log entry 2). -/
def Obligations.AbortReportsAndWarns : Prop :=
  ∀ (s : State) (c : JtCommand), s.jt.fault = false → s.jt.st = .abort →
    ∀ i ∈ [Instr.jtCmdDrTdi c, .jtCmdDrTdo c, .drAbort .tdi c, .drAbort .tdo c], ∃ t, exec i s = .next t ∧
      JtEffect s t .idle c
        (if vectorValue c / 2 % 2 ^ 31 = 0 then [.abortStatus (decide (vectorValue c % 2 = 1))]
         else [.abortStatus (decide (vectorValue c % 2 = 1)), .abortReservedWarn])

/-- Unknown decode (R215): a diagnostic with the raw vector, by `"DR TDI"`, `"DR TDO"` and the row `DR_UNKNOWN` (as
an op the model's choice, log entry 2). -/
def Obligations.UnknownEmitsADiagnostic : Prop :=
  ∀ (s : State) (c : JtCommand), s.jt.fault = false → s.jt.st = .unknown →
    ∀ i ∈ [Instr.jtCmdDrTdi c, .jtCmdDrTdo c, .drUnknown .tdi c, .drUnknown .tdo c], ∃ t, exec i s = .next t ∧
      JtEffect s t .idle c [.unknownDiag c.len (BitVec.ofNat 64 (vectorValue c))]

/-- In the five register states `"DR TDI"` and `"DR TDO"` are treated identically: the two ops have the same outcome
(R207). -/
def Obligations.TransferLinesAreNotDistinguished : Prop :=
  ∀ (s : State) (c : JtCommand), s.jt.st ∈ [JtSt.idcode, .dpacc, .apacc, .abort, .unknown] →
    exec (.jtCmdDrTdi c) s = exec (.jtCmdDrTdo c) s ∧
    (s.jt.fault = false → ∀ i ∈ [Instr.jtCmdDrTdi c, .jtCmdDrTdo c], ∃ t, exec i s = .next t ∧ t.jt.st = .idle) ∧
    (∀ i ∈ [Instr.jtCmdIrTdi c, .jtCmdReservedSelector c], ∃ t, exec i s = .next t ∧ NoEffect s t)

/-- What `Bypass` and `Idle` do not accept (R203, R205), and the reserved selector in every declared state: the
command is ignored and leaves the unit as it is (R216). -/
def Obligations.UnacceptedCommandsAreIgnored : Prop :=
  ∀ (s : State) (c : JtCommand),
    (s.jt.st = .idle → ∀ i ∈ [Instr.jtCmdDrTdi c, .jtCmdDrTdo c], ∃ t, exec i s = .next t ∧ NoEffect s t) ∧
    (s.jt.st = .bypass → ∀ i ∈ [Instr.jtCmdIrTdi c, .jtCmdDrTdo c], ∃ t, exec i s = .next t ∧ NoEffect s t) ∧
    (s.jt.st ≠ .code7 → ∃ t, exec (.jtCmdReservedSelector c) s = .next t ∧ NoEffect s t)

/-- "There is no other way out of a non-idle state except reset" (R217, R264, R266): whatever op completes, a
non-idle state is kept, or it is left for `Idle` by a data transfer or by reset; an instruction load never leaves it,
and no transfer on the line `"DR TDO"`, by the command or by a layout row (log entry 2), leaves `Bypass`. -/
def Obligations.NonIdleStatesAreLeftOnlyForIdle : Prop :=
  ∀ (s t : State) (i : Instr), exec i s = .next t → s.jt.st ≠ .idle → t.jt.st ≠ s.jt.st →
    t.jt.st = .idle ∧ (i = .reset ∨ (isTransfer i = true ∧ s.jt.fault = false ∧ s.jt.st ≠ .code7 ∧
      ¬ (s.jt.st = .bypass ∧ isTdoTransfer i = true)))

/-- Bits of the vector at and above `len` are ignored by every JT command (R202): two commands that agree below it
have the same outcome. -/
def Obligations.VectorBitsAboveLengthAreIgnored : Prop :=
  ∀ (s : State) (c d : JtCommand), c.len = d.len → c.start = d.start → c.stop = d.stop →
    (∀ k < c.len.toNat, c.val.getLsbD k = d.val.getLsbD k) →
    exec (.jtCmdIrTdi c) s = exec (.jtCmdIrTdi d) s ∧ exec (.jtCmdDrTdi c) s = exec (.jtCmdDrTdi d) s ∧
    exec (.jtCmdDrTdo c) s = exec (.jtCmdDrTdo d) s ∧
    exec (.jtCmdReservedSelector c) s = exec (.jtCmdReservedSelector d) s

/-- The rows of the op table that fix an operand are the ops they name (log entry 2; the model's choice): in EVERY
state a datarate row is `EM_CFG_DATARATE` with its code, a pattern row is the `"IR TDI"` whose normalised vector ends
in the pattern, and a layout row is the `"DR TDI"` or `"DR TDO"` with its vector. -/
def Obligations.OperandRowsAreTheirOps : Prop :=
  ∀ (s : State) (c : JtCommand) (t : IrVector) (p : BitVec 4), t.wellFormed = true →
    (exec .datarate64 s = exec (.emCfgDatarate 0b00#2) s ∧ exec .datarate32 s = exec (.emCfgDatarate 0b01#2) s ∧
     exec .datarate16 s = exec (.emCfgDatarate 0b10#2) s ∧
     exec .datarateReserved s = exec (.emCfgDatarate 0b11#2) s) ∧
    (vectorValue (irCommand p t) % 16 = p.toNat ∧ (irCommand p t).len.toNat = 4 + t.extra.toNat ∧
     (irCommand p t).wellFormed = true ∧
     exec (.irBypass t) s = exec (.jtCmdIrTdi (irCommand 0b1111#4 t)) s ∧
     exec (.irIdcode t) s = exec (.jtCmdIrTdi (irCommand 0b1110#4 t)) s ∧
     exec (.irDpacc t) s = exec (.jtCmdIrTdi (irCommand 0b1010#4 t)) s ∧
     exec (.irApacc t) s = exec (.jtCmdIrTdi (irCommand 0b1011#4 t)) s ∧
     exec (.irAbort t) s = exec (.jtCmdIrTdi (irCommand 0b1000#4 t)) s ∧
     exec (.irUnknown p t) s = exec (.jtCmdIrTdi (irCommand p t)) s) ∧
    exec (.drBypass c) s = exec (.jtCmdDrTdi c) s ∧
    (∀ i ∈ [Instr.drIdcode .tdi c, .drDpacc .tdi c, .drApacc .tdi c, .drAbort .tdi c, .drUnknown .tdi c],
      exec i s = exec (.jtCmdDrTdi c) s) ∧
    (∀ i ∈ [Instr.drIdcode .tdo c, .drDpacc .tdo c, .drApacc .tdo c, .drAbort .tdo c, .drUnknown .tdo c],
      exec i s = exec (.jtCmdDrTdo c) s)

/-! ### Faults -/

/-- The internal-consistency fault (R221): a JT command of any selector that finds code 7 sets `jt.fault`, keeps
`jt.st`, emits nothing and presents fault code 2; and no op writes code 7. -/
def Obligations.MalformedStateRaises : Prop :=
  (∀ (s t : State) (i : Instr), exec i s = .next t → s.jt.st ≠ .code7 → t.jt.st ≠ .code7) ∧
  ∀ (s : State) (i : Instr), isJtOp i = true → s.jt.st = .code7 → s.jt.fault = false →
    ∃ t, exec i s = .next t ∧ t.jt = { st := .code7, fault := true } ∧ t.jtPort = ⟨0#2, [], 2#2⟩ ∧
      t.em = s.em ∧ t.emPort = .idle ∧ t.emStream = s.emStream ∧ t.jtStream = s.jtStream ∧ t.pending = s.pending

/-- The halted unit (R222): while `jt.fault = 1` every JT command is discarded, "Only reset clears `jt.fault`", and
an EM op does what it does without the fault. -/
def Obligations.HaltedUnitDiscardsUntilReset : Prop :=
  (∀ (s : State) (i : Instr), isJtOp i = true → s.jt.fault = true → ∃ t, exec i s = .next t ∧ NoEffect s t) ∧
  (∀ (s t : State) (i : Instr), exec i s = .next t → s.jt.fault = true → t.jt.fault = false → i = .reset) ∧
  (∀ (s t : State) (i : Instr), isEmOp i = true → exec i s = .next t →
    exec i { s with jt := { s.jt with fault := true } } = .next { t with jt := { t.jt with fault := true } })

/-- Each fault code has one cause (R241 to R243): code 1 exactly at an `EM_BATCH` with the sample rate unset, code 2
exactly at a JT command that finds code 7 in a unit that is not halted; code 3 is never produced, nor code 2 by the
EM unit or code 1 by the JT unit. -/
def Obligations.EachFaultHasOneCause : Prop :=
  ∀ (s t : State) (i : Instr), exec i s = .next t →
    (t.emPort.faultCode = 0#2 ∨ t.emPort.faultCode = 1#2) ∧
    (t.emPort.faultCode = 1#2 ↔ (∃ a b, i = .emBatch a b) ∧ s.em.samplerate = 0#32) ∧
    (t.jtPort.faultCode = 0#2 ∨ t.jtPort.faultCode = 2#2) ∧
    (t.jtPort.faultCode = 2#2 ↔ isJtOp i = true ∧ s.jt.st = .code7 ∧ s.jt.fault = false)

/-- `em.cfg_fault` (R29): set by an `EM_BATCH` that raises and by nothing else, cleared by reset and by nothing else,
and "It gates nothing": with another value of the flag every op completes just so, but for the flag itself. -/
def Obligations.ConfigFaultFlagIsStickyAndGatesNothing : Prop :=
  ∀ (s t : State) (i : Instr), exec i s = .next t →
    (i = .reset → t.em.cfgFault = false) ∧
    ((∃ a b, i = .emBatch a b) → s.em.samplerate = 0#32 → t.em.cfgFault = true) ∧
    (s.em.cfgFault = true → t.em.cfgFault = false → i = .reset) ∧
    (s.em.cfgFault = false → t.em.cfgFault = true → (∃ a b, i = .emBatch a b) ∧ s.em.samplerate = 0#32) ∧
    (∀ b, ∃ t', exec i { s with em := { s.em with cfgFault := b } } = .next t' ∧
      { t' with em := { t'.em with cfgFault := false } } = { t with em := { t.em with cfgFault := false } })

/-! ### The whole machine -/

/-- The invariants of R49 and R155 hold after reset. -/
def Obligations.ResetMeetsTheInvariants : Prop := State.reset.Inv ∧ State.reset.BatchInv ∧ State.reset.NothingLost

/-- Every step keeps the invariants of R49, with those of R155, from every state that meets them and for every op the
host can present. -/
def Obligations.EveryStepKeepsTheInvariants : Prop :=
  ∀ s t : State, s.Inv → step s = .next t → t.Inv

/-- `em.batch_ok = 1` implies `em.samplerate ≠ 0`, unless an `EM_SET_SAMPLERATE` with operand 0 intervenes (R49,
R268): every other op keeps it. -/
def Obligations.OpenBatchHasASampleRate : Prop :=
  ∀ (s t : State) (i : Instr), s.BatchInv → i ≠ .emSetSamplerate 0#32 → exec i s = .next t → t.BatchInv

/-- In a state that meets the invariants no op stops the machine but an out-of-order edge (a sample in an open batch,
after the first, with a new level, at a position not above `em.prev_pos`), and no op raises
`InternalConsistencyError` (R144, R155, R221, R271). -/
def Obligations.OnlyDisorderStopsTheMachine : Prop :=
  ∀ (s : State) (i : Instr), s.Inv →
    ((∃ t, exec i s = .next t ∧ t.jtPort.faultCode = 0#2) ∨
     (exec i s = .refused .positionNotIncreasing ∧ ∃ position level, i = .emSample position level ∧
       s.em.batchOk = true ∧ s.em.havePrev = true ∧ level ≠ s.em.prevLevel ∧
       position.toNat ≤ s.em.prevPos.toNat))

/-- The units share no state (R20, R22): an EM op writes nothing of the JT unit and a JT op nothing of the EM unit. -/
def Obligations.UnitsWriteOnlyTheirOwnState : Prop :=
  ∀ (s t : State) (i : Instr), exec i s = .next t →
    (isEmOp i = true → t.jt = s.jt ∧ t.jtStream = s.jtStream ∧ t.jtPort = .idle ∧ t.pending = s.pending) ∧
    (isJtOp i = true → t.em = s.em ∧ t.emStream = s.emStream ∧ t.emPort = .idle ∧ t.pending = s.pending)

/-- The units read nothing of each other (R20, R69): in two states that agree on one unit's registers and stream, an
op of that unit completes in both or in neither, with the same registers, port and stream. -/
def Obligations.UnitsReadOnlyTheirOwnState : Prop :=
  ∀ (s s' t : State) (i : Instr), exec i s = .next t →
    (isEmOp i = true → s'.em = s.em → s'.emStream = s.emStream →
      ∃ t', exec i s' = .next t' ∧ t'.em = t.em ∧ t'.emPort = t.emPort ∧ t'.emStream = t.emStream) ∧
    (isJtOp i = true → s'.jt = s.jt → s'.jtStream = s.jtStream →
      ∃ t', exec i s' = .next t' ∧ t'.jt = t.jt ∧ t'.jtPort = t.jtPort ∧ t'.jtStream = t.jtStream)

/-- Interleaving (R69): an EM op and a JT op, in either order, leave the same registers of both units and the same
two annotation streams. -/
def Obligations.UnitsCommute : Prop :=
  ∀ (s t u : State) (i j : Instr), isEmOp i = true → isJtOp j = true → exec i s = .next t → exec j t = .next u →
    ∃ t' u', exec j s = .next t' ∧ exec i t' = .next u' ∧ u'.em = u.em ∧ u'.jt = u.jt ∧
      u'.emStream = u.emStream ∧ u'.jtStream = u.jtStream ∧ u'.pending = u.pending

/-- The streams are the concatenation of the ops' lists, in order, and never withdrawn (R64): what an op adds is what
its port shows, at most four EM and two JT annotations, with the coded records of R96 and R97 on the port. -/
def Obligations.StreamsGrowByWhatThePortsShow : Prop :=
  ∀ (s t : State) (i : Instr), exec i s = .next t →
    ∃ (a : List EmAnnotation) (b : List JtAnnotation),
      t.emStream = s.emStream ++ a ∧ t.jtStream = s.jtStream ++ b ∧ a.length ≤ 4 ∧ b.length ≤ 2 ∧
      t.emPort.slots = a.map EmAnnotation.slot ∧ t.emPort.count.toNat = a.length ∧
      t.jtPort.slots.map (fun x => (x.start, x.stop, x.kind)) = b.map (fun x => (x.start, x.stop, x.payload.kind)) ∧
      t.jtPort.count.toNat = b.length

/-- The port triple of a JT annotation (R97): `val` is the normalised command vector, `len` its length, and where the
kind names a register `reg` is that register's code. (Where it names none the wires are free, log entry 7.) -/
def Obligations.JtSlotsCarryTheCommand : Prop :=
  ∀ (s t : State) (c : JtCommand), ∀ i ∈ [Instr.jtCmdIrTdi c, .jtCmdDrTdi c, .jtCmdDrTdo c],
    exec i s = .next t →
    (∀ x ∈ t.jtPort.slots, x.start = c.start ∧ x.stop = c.stop ∧ x.len = c.len ∧ x.val.toNat = vectorValue c) ∧
    (∀ x ∈ t.jtPort.slots, x.kind = 0#3 → x.reg = t.jt.st.code) ∧
    (∀ x ∈ t.jtPort.slots, x.kind = 3#3 ∨ x.kind = 4#3 → x.reg = s.jt.st.code)
end

