-- ==== Sys2Proof/Laws/Decode.lean ====
section
/-! SUPPORT. The fields of a record put together from its fields: one lemma per field, so that no proof about decoding
unfolds `OpWord.pack`. -/

namespace Sys2Proof

section
variable (z y x : BitVec 64) (line : BitVec 1) (len : Len) (rst : BitVec 1) (form : BitVec 4) (code : BitVec 3)

@[simp] theorem pack_code : (OpWord.pack z y x line len rst form code).code = code := by
  unfold OpWord.pack OpWord.code
  rw [BitVec.extractLsb'_append_eq_of_add_le (by decide)]
  exact BitVec.extractLsb'_eq_self

@[simp] theorem pack_form : (OpWord.pack z y x line len rst form code).form = form := by
  unfold OpWord.pack OpWord.form
  iterate 1 rw [BitVec.extractLsb'_append_eq_of_le (by decide)]
  rw [BitVec.extractLsb'_append_eq_of_add_le (by decide)]
  exact BitVec.extractLsb'_eq_self

@[simp] theorem pack_rst : (OpWord.pack z y x line len rst form code).rst = rst := by
  unfold OpWord.pack OpWord.rst
  iterate 2 rw [BitVec.extractLsb'_append_eq_of_le (by decide)]
  rw [BitVec.extractLsb'_append_eq_of_add_le (by decide)]
  exact BitVec.extractLsb'_eq_self

@[simp] theorem pack_len : (OpWord.pack z y x line len rst form code).len = len := by
  unfold OpWord.pack OpWord.len
  iterate 3 rw [BitVec.extractLsb'_append_eq_of_le (by decide)]
  rw [BitVec.extractLsb'_append_eq_of_add_le (by decide)]
  exact BitVec.extractLsb'_eq_self

@[simp] theorem pack_line : (OpWord.pack z y x line len rst form code).line = line := by
  unfold OpWord.pack OpWord.line
  iterate 4 rw [BitVec.extractLsb'_append_eq_of_le (by decide)]
  rw [BitVec.extractLsb'_append_eq_of_add_le (by decide)]
  exact BitVec.extractLsb'_eq_self

@[simp] theorem pack_x : (OpWord.pack z y x line len rst form code).x = x := by
  unfold OpWord.pack OpWord.x
  iterate 5 rw [BitVec.extractLsb'_append_eq_of_le (by decide)]
  rw [BitVec.extractLsb'_append_eq_of_add_le (by decide)]
  exact BitVec.extractLsb'_eq_self

@[simp] theorem pack_y : (OpWord.pack z y x line len rst form code).y = y := by
  unfold OpWord.pack OpWord.y
  iterate 6 rw [BitVec.extractLsb'_append_eq_of_le (by decide)]
  rw [BitVec.extractLsb'_append_eq_of_add_le (by decide)]
  exact BitVec.extractLsb'_eq_self

@[simp] theorem pack_z : (OpWord.pack z y x line len rst form code).z = z := by
  unfold OpWord.pack OpWord.z
  iterate 7 rw [BitVec.extractLsb'_append_eq_of_le (by decide)]
  exact BitVec.extractLsb'_eq_self

end

/-- `decodeCommand` answers the record's JT operands, which are well-formed. -/
theorem decodeCommand_ok {w : OpWord} {c : JtCommand} (h : decodeCommand w = .ok c) :
    c = ⟨w.len, w.x, w.y, w.z⟩ ∧ c.wellFormed = true := by
  simp only [decodeCommand] at h
  split at h
  · cases h; exact ⟨rfl, ‹_›⟩
  · cases h

/-- `decodeIrVector` answers the record's pattern-row operands, which are well-formed. -/
theorem decodeIrVector_ok {w : OpWord} {t : IrVector} (h : decodeIrVector w = .ok t) :
    t = ⟨w.len.setWidth 6, w.x.setWidth 60, w.y, w.z⟩ ∧ t.wellFormed = true := by
  simp only [decodeIrVector] at h
  split at h
  · cases h
    refine ⟨rfl, ?_⟩
    simp only [IrVector.wellFormed, Config.bitsW, BitVec.toNat_setWidth, decide_eq_true_eq]
    omega
  · cases h

end Sys2Proof
end

