-- ==== Sys2Proof/Laws/State.lean ====
section
/-! SUPPORT. One lemma per field per update of the state, each true by `rfl` and a simp lemma, so that no proof
unfolds a record update. -/

namespace Sys2Proof.Machine

variable (s : State) (e : EmRegs) (regs : EmRegs) (jregs : JtRegs) (anns : List EmAnnotation) (c : JtCommand)
  (ps : List JtPayload) (w : OpWord)

/-! ### `emFinish` -/

@[simp] theorem emFinish_em : (s.emFinish regs anns).em = regs := rfl
@[simp] theorem emFinish_jt : (s.emFinish regs anns).jt = s.jt := rfl
@[simp] theorem emFinish_pending : (s.emFinish regs anns).pending = s.pending := rfl
@[simp] theorem emFinish_emPort : (s.emFinish regs anns).emPort = emPortOf anns := rfl
@[simp] theorem emFinish_jtPort : (s.emFinish regs anns).jtPort = .idle := rfl
@[simp] theorem emFinish_emStream : (s.emFinish regs anns).emStream = s.emStream ++ anns := rfl
@[simp] theorem emFinish_jtStream : (s.emFinish regs anns).jtStream = s.jtStream := rfl

/-! ### `jtFinish` -/

@[simp] theorem jtFinish_em : (s.jtFinish jregs c ps).em = s.em := rfl
@[simp] theorem jtFinish_jt : (s.jtFinish jregs c ps).jt = jregs := rfl
@[simp] theorem jtFinish_pending : (s.jtFinish jregs c ps).pending = s.pending := rfl
@[simp] theorem jtFinish_emPort : (s.jtFinish jregs c ps).emPort = .idle := rfl
@[simp] theorem jtFinish_jtPort : (s.jtFinish jregs c ps).jtPort = jtPortOf ps s.jt.st c := rfl
@[simp] theorem jtFinish_emStream : (s.jtFinish jregs c ps).emStream = s.emStream := rfl
@[simp] theorem jtFinish_jtStream :
    (s.jtFinish jregs c ps).jtStream = s.jtStream ++ ps.map (fun p => p.annotate c) := rfl

/-! ### `quiet` and `idleCycle` -/

@[simp] theorem idleCycle_em : s.idleCycle.em = s.em := rfl
@[simp] theorem idleCycle_jt : s.idleCycle.jt = s.jt := rfl
@[simp] theorem idleCycle_pending : s.idleCycle.pending = s.pending := rfl
@[simp] theorem idleCycle_emPort : s.idleCycle.emPort = .idle := rfl
@[simp] theorem idleCycle_jtPort : s.idleCycle.jtPort = .idle := rfl
@[simp] theorem idleCycle_emStream : s.idleCycle.emStream = s.emStream := rfl
@[simp] theorem idleCycle_jtStream : s.idleCycle.jtStream = s.jtStream := rfl
@[simp] theorem quiet_em : s.quiet.em = s.em := rfl
@[simp] theorem quiet_jt : s.quiet.jt = s.jt := rfl
@[simp] theorem quiet_pending : s.quiet.pending = s.pending := rfl
@[simp] theorem quiet_emPort : s.quiet.emPort = .idle := rfl
@[simp] theorem quiet_jtPort : s.quiet.jtPort = .idle := rfl
@[simp] theorem quiet_emStream : s.quiet.emStream = s.emStream := rfl
@[simp] theorem quiet_jtStream : s.quiet.jtStream = s.jtStream := rfl

/-! ### `takeFault` -/

@[simp] theorem takeFault_config_em :
    (s.takeFault .configurationError).em = { s.em with batchOk := false, cfgFault := true } := rfl
@[simp] theorem takeFault_config_jt : (s.takeFault .configurationError).jt = s.jt := rfl
@[simp] theorem takeFault_config_emPort : (s.takeFault .configurationError).emPort = ⟨0#3, [], 1#2⟩ := rfl
@[simp] theorem takeFault_config_jtPort : (s.takeFault .configurationError).jtPort = .idle := rfl
@[simp] theorem takeFault_consistency_em : (s.takeFault .internalConsistencyError).em = s.em := rfl
@[simp] theorem takeFault_consistency_jt :
    (s.takeFault .internalConsistencyError).jt = { s.jt with fault := true } := rfl
@[simp] theorem takeFault_consistency_emPort : (s.takeFault .internalConsistencyError).emPort = .idle := rfl
@[simp] theorem takeFault_consistency_jtPort :
    (s.takeFault .internalConsistencyError).jtPort = ⟨0#2, [], 2#2⟩ := rfl
@[simp] theorem takeFault_pending (k : ErrorKind) : (s.takeFault k).pending = s.pending := by cases k <;> rfl
@[simp] theorem takeFault_emStream (k : ErrorKind) : (s.takeFault k).emStream = s.emStream := by cases k <;> rfl
@[simp] theorem takeFault_jtStream (k : ErrorKind) : (s.takeFault k).jtStream = s.jtStream := by cases k <;> rfl

/-! ### `pinReset` and `present` -/

@[simp] theorem pinReset_em : s.pinReset.em = EmRegs.reset := rfl
@[simp] theorem pinReset_jt : s.pinReset.jt = JtRegs.reset := rfl
@[simp] theorem pinReset_pending : s.pinReset.pending = s.pending := rfl
@[simp] theorem pinReset_emPort : s.pinReset.emPort = .idle := rfl
@[simp] theorem pinReset_jtPort : s.pinReset.jtPort = .idle := rfl
@[simp] theorem pinReset_emStream : s.pinReset.emStream = s.emStream := rfl
@[simp] theorem pinReset_jtStream : s.pinReset.jtStream = s.jtStream := rfl
@[simp] theorem present_pending : (s.present w).pending = w :: s.pending := rfl
@[simp] theorem present_em : (s.present w).em = s.em := rfl
@[simp] theorem present_jt : (s.present w).jt = s.jt := rfl

/-! ### Ports -/

@[simp] theorem emPortOf_slots : (emPortOf anns).slots = anns.map EmAnnotation.slot := rfl
@[simp] theorem emPortOf_faultCode : (emPortOf anns).faultCode = 0#2 := rfl
@[simp] theorem emPortOf_count : (emPortOf anns).count = BitVec.ofNat 3 anns.length := rfl
@[simp] theorem emPortOf_nil : emPortOf [] = .idle := rfl
@[simp] theorem jtPortOf_slots (st : JtSt) : (jtPortOf ps st c).slots = ps.map (fun p => p.slot st c) := rfl
@[simp] theorem jtPortOf_faultCode (st : JtSt) : (jtPortOf ps st c).faultCode = 0#2 := rfl
@[simp] theorem jtPortOf_count (st : JtSt) : (jtPortOf ps st c).count = BitVec.ofNat 2 ps.length := rfl
@[simp] theorem slot_start (p : JtPayload) (st : JtSt) : (p.slot st c).start = c.start := rfl
@[simp] theorem slot_stop (p : JtPayload) (st : JtSt) : (p.slot st c).stop = c.stop := rfl
@[simp] theorem slot_kind (p : JtPayload) (st : JtSt) : (p.slot st c).kind = p.kind := rfl
@[simp] theorem slot_len (p : JtPayload) (st : JtSt) : (p.slot st c).len = c.len := rfl
@[simp] theorem slot_val (p : JtPayload) (st : JtSt) : (p.slot st c).val = normVector c := rfl

/-! ### The tracking update -/

@[simp] theorem track_oldpl (arm : Option Arm) (p : Pos) (l : Bool) :
    (e.track arm p l).oldpl = p - e.prevPos := rfl
@[simp] theorem track_prevPos (arm : Option Arm) (p : Pos) (l : Bool) : (e.track arm p l).prevPos = p := rfl
@[simp] theorem track_prevLevel (arm : Option Arm) (p : Pos) (l : Bool) : (e.track arm p l).prevLevel = l := rfl
@[simp] theorem track_havePrev (arm : Option Arm) (p : Pos) (l : Bool) :
    (e.track arm p l).havePrev = e.havePrev := rfl
@[simp] theorem track_batchOk (arm : Option Arm) (p : Pos) (l : Bool) :
    (e.track arm p l).batchOk = e.batchOk := rfl
@[simp] theorem track_cfgFault (arm : Option Arm) (p : Pos) (l : Bool) :
    (e.track arm p l).cfgFault = e.cfgFault := rfl
@[simp] theorem track_samplerate (arm : Option Arm) (p : Pos) (l : Bool) :
    (e.track arm p l).samplerate = e.samplerate := rfl
@[simp] theorem track_coil (arm : Option Arm) (p : Pos) (l : Bool) : (e.track arm p l).coil = e.coil := rfl

end Sys2Proof.Machine
end

