-- ==== Sys2Proof/Laws/Ops.lean ====
section
/-! SUPPORT. For each shared operation, once, all that it can do; cited in place of unfolding it. -/

namespace Sys2Proof.Machine

/-! ### The step -/

/-- All a step can answer: a quiet cycle, the outcome of the decoded op, or a refusal of the record. -/
theorem step_cases (s : State) :
    (s.pending = [] ∧ step s = .next s.idleCycle) ∨
    (∃ w rest i, s.pending = w :: rest ∧ decode w = .ok i ∧ step s = exec i { s with pending := rest }) ∨
    (∃ w rest r, s.pending = w :: rest ∧ decode w = .error r ∧ step s = .refused (.undecodable r)) := by
  unfold step State.consume
  cases hp : s.pending with
  | nil => exact .inl ⟨rfl, rfl⟩
  | cons w rest =>
    cases hd : decode w with
    | ok i => exact .inr (.inl ⟨w, rest, i, rfl, hd, by simp [hd]⟩)
    | error r => exact .inr (.inr ⟨w, rest, r, rfl, hd, by simp [hd]⟩)

/-! ### EM configuration -/

/-- All a datarate code can do: write one of the three values, or nothing. -/
theorem writeDatarate_cases (s : State) (code : BitVec 2) :
    (∃ d, datarateOfCode code = some d ∧ s.writeDatarate code = s.emFinish { s.em with datarate := d } []) ∨
    (datarateOfCode code = none ∧ s.writeDatarate code = s.quiet) := by
  unfold State.writeDatarate
  cases datarateOfCode code with
  | some d => exact .inl ⟨d, rfl, rfl⟩
  | none => exact .inr ⟨rfl, rfl⟩

/-! ### The frame state machine -/

/-- What `FrameStep` never writes (R154): the configuration, the status flags and the edge-tracking registers. -/
theorem frameStep_keeps (e : EmRegs) (sym : BitSymbol) :
    (e.frameStep sym).1 =
      { e with
        fs := (e.frameStep sym).1.fs, run := (e.frameStep sym).1.run, hstart := (e.frameStep sym).1.hstart,
        pcnt := (e.frameStep sym).1.pcnt, nib := (e.frameStep sym).1.nib, rpar := (e.frameStep sym).1.rpar,
        col := (e.frameStep sym).1.col, gstart := (e.frameStep sym).1.gstart,
        dstop := (e.frameStep sym).1.dstop, tcnt := (e.frameStep sym).1.tcnt, tb := (e.frameStep sym).1.tb,
        tstart := (e.frameStep sym).1.tstart, tstop := (e.frameStep sym).1.tstop } := by
  unfold EmRegs.frameStep EmRegs.frameArm
  cases hfs : e.fs with
  | header => simp only [EmRegs.headerStep]; split <;> (try split) <;> simp
  | payload => simp only [EmRegs.payloadStep]; split <;> simp
  | trailer => simp only [EmRegs.trailerStep]; split <;> simp

/-- The annotations of a symbol: the bit, and then none, one or three more (R187). -/
theorem frameStep_count (e : EmRegs) (sym : BitSymbol) : (e.frameStep sym).2.length ≤ 4 := by
  unfold EmRegs.frameStep EmRegs.frameArm
  cases e.fs with
  | header => simp only [EmRegs.headerStep]; split <;> (try split) <;> simp
  | payload => simp only [EmRegs.payloadStep]; split <;> simp
  | trailer => simp only [EmRegs.trailerStep]; split <;> simp

/-! ### Samples -/

/-- All an edge in order can do: only track, stop at a symbol before position 0, or emit a symbol. -/
theorem edge_cases (s : State) (position : Pos) (level : Bool) :
    (s.em.edgeArm position = none ∧
      s.edge position level = .next (s.emFinish (s.em.track none position level) [])) ∨
    (∃ arm, s.em.edgeArm position = some arm ∧ s.em.prevPos < arm.reach s.em.oldpl ∧
      s.edge position level = .fault .symbolBeforeOrigin) ∨
    (∃ arm r, s.em.edgeArm position = some arm ∧ ¬ s.em.prevPos < arm.reach s.em.oldpl ∧
      r = (s.em.track (some arm) position level).frameStep (s.em.symbolOf arm position) ∧
      s.edge position level = .next (s.emFinish r.1 r.2)) := by
  unfold State.edge
  cases h : s.em.edgeArm position with
  | none => exact .inl ⟨rfl, rfl⟩
  | some arm =>
    by_cases hr : s.em.prevPos < arm.reach s.em.oldpl
    · exact .inr (.inl ⟨arm, rfl, hr, by simp [hr]⟩)
    · exact .inr (.inr ⟨arm, _, rfl, hr, rfl, by simp [hr]⟩)

/-- All an `EM_SAMPLE` can do (R142). -/
theorem execEmSample_cases (position : Pos) (level : Bool) (s : State) :
    ((s.em.batchOk = false ∨ (s.em.havePrev = true ∧ level = s.em.prevLevel)) ∧
      execEmSample position level s = .next s.quiet) ∨
    (s.em.batchOk = true ∧ s.em.havePrev = false ∧
      execEmSample position level s = .next (s.emFinish (s.em.firstSample position level) [])) ∨
    (s.em.batchOk = true ∧ s.em.havePrev = true ∧ level ≠ s.em.prevLevel ∧ position ≤ s.em.prevPos ∧
      execEmSample position level s = .refused .positionNotIncreasing) ∨
    (AtEdge s position level ∧ execEmSample position level s = s.edge position level) := by
  unfold execEmSample
  by_cases hb : s.em.batchOk = false
  · exact .inl ⟨.inl hb, by simp [hb]⟩
  by_cases hh : s.em.havePrev = false
  · exact .inr (.inl ⟨by simpa using hb, hh, by simp [hb, hh]⟩)
  by_cases hl : level = s.em.prevLevel
  · exact .inl ⟨.inr ⟨by simpa using hh, hl⟩, by simp [hb, hh, hl]⟩
  by_cases hp : position ≤ s.em.prevPos
  · exact .inr (.inr (.inl ⟨by simpa using hb, by simpa using hh, hl, hp, by simp [hb, hh, hl, hp]⟩))
  · exact .inr (.inr (.inr ⟨⟨by simpa using hb, by simpa using hh, hl, by simpa using hp⟩,
      by simp [hb, hh, hl, hp]⟩))

/-! ### JT commands -/

/-- All a JT command can do (R201). -/
theorem jtCommand_cases (s : State) (sel : JtSelector) (c : JtCommand) :
    ((s.jt.fault = true ∨ (s.jt.st ≠ .code7 ∧ jtAccepts s.jt.st sel = false)) ∧ s.jtCommand sel c = s.quiet) ∨
    (s.jt.fault = false ∧ s.jt.st = .code7 ∧ s.jtCommand sel c = s.takeFault .internalConsistencyError) ∨
    (s.jt.fault = false ∧ s.jt.st ≠ .code7 ∧ jtAccepts s.jt.st sel = true ∧
      s.jtCommand sel c =
        s.jtFinish { s.jt with st := jtNext s.jt.st c } c (jtPayloads s.jt.st c)) := by
  unfold State.jtCommand
  by_cases hf : s.jt.fault = true
  · exact .inl ⟨.inl hf, by simp [hf]⟩
  by_cases h7 : s.jt.st = .code7
  · exact .inr (.inl ⟨by simpa using hf, h7, by simp [hf, h7]⟩)
  cases ha : jtAccepts s.jt.st sel with
  | false => exact .inl ⟨.inr ⟨h7, rfl⟩, by simp [hf, h7]⟩
  | true => exact .inr (.inr ⟨by simpa using hf, h7, rfl, by simp [hf, h7]⟩)

/-- Every op of the JT unit is a JT command. -/
theorem exec_of_isJtOp {i : Instr} (h : isJtOp i = true) (s : State) :
    ∃ sel c, exec i s = .next (s.jtCommand sel c) := by
  cases i <;> first | exact ⟨_, _, rfl⟩ | exact absurd h Bool.false_ne_true

/-- An accepted command emits one or two annotations. -/
theorem jtPayloads_count (st : JtSt) (c : JtCommand) : (jtPayloads st c).length ≤ 2 := by
  cases st <;> simp only [jtPayloads] <;> (try split) <;> simp

/-- Every op that completes ends the step in one of these ways. -/
theorem exec_next_cases {i : Instr} {s t : State} (h : exec i s = .next t) :
    (i = .reset ∧ t = s.pinReset) ∨
    (isEmOp i = true ∧ (t = s.quiet ∨ (∃ a b, i = .emBatch a b ∧ s.em.samplerate = 0#32 ∧
        t = s.takeFault .configurationError) ∨
      (∃ regs anns, anns.length ≤ 4 ∧ t = s.emFinish regs anns))) ∨
    (isJtOp i = true ∧ ∃ sel c, t = s.jtCommand sel c) := by
  by_cases hj : isJtOp i = true
  · obtain ⟨sel, c, he⟩ := exec_of_isJtOp hj s
    rw [he] at h
    exact .inr (.inr ⟨hj, sel, c, by cases h; rfl⟩)
  cases i with
  | reset => exact .inl ⟨rfl, by cases h; rfl⟩
  | emCfgPolarity b => cases h; exact .inr (.inl ⟨rfl, .inr (.inr ⟨_, [], by simp, rfl⟩)⟩)
  | emSetSamplerate r => cases h; exact .inr (.inl ⟨rfl, .inr (.inr ⟨_, [], by simp, rfl⟩)⟩)
  | emReserved6 => cases h; exact .inr (.inl ⟨rfl, .inl rfl⟩)
  | emReserved7 => cases h; exact .inr (.inl ⟨rfl, .inl rfl⟩)
  | emCfgCoilfreq f =>
    refine .inr (.inl ⟨rfl, ?_⟩)
    simp only [exec, execEmCfgCoilfreq] at h
    split at h
    · cases h; exact .inl rfl
    · cases h; exact .inr (.inr ⟨_, [], by simp, rfl⟩)
  | emBatch a b =>
    refine .inr (.inl ⟨rfl, ?_⟩)
    simp only [exec, execEmBatch] at h
    split at h
    · cases h; exact .inr (.inl ⟨a, b, rfl, ‹_›, rfl⟩)
    · cases h; exact .inr (.inr ⟨_, [], by simp, rfl⟩)
  | emSample p l =>
    refine .inr (.inl ⟨rfl, ?_⟩)
    simp only [exec] at h
    rcases execEmSample_cases p l s with ⟨-, e⟩ | ⟨-, -, e⟩ | ⟨-, -, -, -, e⟩ | ⟨-, e⟩
    · rw [e] at h; cases h; exact .inl rfl
    · rw [e] at h; cases h; exact .inr (.inr ⟨_, [], by simp, rfl⟩)
    · rw [e] at h; cases h
    · rw [e] at h
      rcases edge_cases s p l with ⟨-, e⟩ | ⟨arm, -, -, e⟩ | ⟨arm, r, -, -, hr, e⟩
      · rw [e] at h; cases h; exact .inr (.inr ⟨_, [], by simp, rfl⟩)
      · rw [e] at h; cases h
      · rw [e] at h; cases h; exact .inr (.inr ⟨_, _, hr ▸ frameStep_count _ _, rfl⟩)
  | emCfgDatarate c =>
    refine .inr (.inl ⟨rfl, ?_⟩); cases h
    rcases writeDatarate_cases s c with ⟨d, -, e⟩ | ⟨-, e⟩
    · exact .inr (.inr ⟨_, [], by simp, e⟩)
    · exact .inl e
  | datarate64 => cases h; exact .inr (.inl ⟨rfl, .inr (.inr ⟨_, [], by simp, rfl⟩)⟩)
  | datarate32 => cases h; exact .inr (.inl ⟨rfl, .inr (.inr ⟨_, [], by simp, rfl⟩)⟩)
  | datarate16 => cases h; exact .inr (.inl ⟨rfl, .inr (.inr ⟨_, [], by simp, rfl⟩)⟩)
  | datarateReserved => cases h; exact .inr (.inl ⟨rfl, .inl rfl⟩)
  | _ => exact absurd rfl hj

end Sys2Proof.Machine
end

