-- ==== Sys2Proof/Machine/Render.lean ====
section
/-! DEFINITION. The text the source fixes for an annotation (`30_encoding.md` R98). Rendering is the host's
(`00_scope.md` R5); `none` stands for a text no rule states. No op depends on this file. -/

namespace Sys2Proof.Machine

/-! ### The two name tables -/

/-- A total table with the explicit "Reserved" entries of R8: `reserved` is one, and every code without a named entry
is one. -/
def tableName {n : Nat} (reserved code : BitVec n) (entry : BitVec n → Option String) : String :=
  if code = reserved then "Reserved" else (entry code).getD "Reserved"

/-- `ACK_NAME` (R94). -/
def ackName (ack : BitVec 3) : String := tableName Config.ackReservedCode ack Config.ackEntry

/-- `ADDR_NAME`, one table for DPACC and APACC (R95). -/
def addrName (a : BitVec 2) : String := tableName Config.addrReservedCode a Config.addrEntry

/-! ### Hexadecimal -/

/-- The hexadecimal digit of a number below 16, in either case. -/
def hexDigit (upper : Bool) (d : Nat) : Char :=
  if d < 10 then Char.ofNat (48 + d) else Char.ofNat ((if upper then 55 else 87) + d)

/-- The 16 hexadecimal digits of a vector's unsigned value, most significant first. -/
def hexDigits (v : Vec) : List Nat := (List.range 16).reverse.map fun k => v.toNat / 16 ^ k % 16

/-- The digits without leading zeros; the value 0 keeps one digit. -/
def significantDigits (v : Vec) : List Nat :=
  match (hexDigits v).dropWhile (fun d => d == 0) with
  | [] => [0]
  | ds => ds

/-- A vector's unsigned value in hexadecimal, after `zeros` leading zeros (R98). -/
def hexText (upper : Bool) (zeros : Nat) (v : Vec) : String :=
  String.ofList (List.replicate zeros '0' ++ (significantDigits v).map (hexDigit upper))

/-! ### The texts -/

/-- The two verdict strings (R98). -/
def verdictText (payload : BitVec 4) : String := if payload.getLsbD 0 then "OK" else "ERROR"

/-- The texts R98 fixes for an EM annotation. -/
def EmAnnotation.text (a : EmAnnotation) : Option String :=
  match a.cat with
  | .bit => some (if a.payload.getLsbD 0 then "1" else "0")
  | .header => none
  | .data => some (String.ofList [hexDigit (Config.dataUpperCase a.payload) a.payload.toNat])
  | .parity => none
  | .rowparVerdict => some (verdictText a.payload)
  | .colparField => none
  | .stopbit => none
  | .colparVerdict => some (verdictText a.payload)

/-- The texts R98 fixes for a JT annotation: the quoted string, or the label and the table name of R94 and R95. -/
def JtPayload.texts : JtPayload → Option (List String)
  | .irSelect _ => none
  | .bypassRaw _ _ => none
  | .idcode len v =>
    some ["IDCODE: 0x" ++ hexText (Config.idcodeUpperCase len v) (Config.idcodeLeadingZeros len v) v]
  | .dataIn _ _ a _ => some ["Data IN", addrName a]
  | .dataOut _ _ ack => some ["Data OUT", ackName ack]
  | .abortStatus dapabort => if dapabort then some ["DAPABORT = 1: DAP abort generated"] else none
  | .abortReservedWarn => none
  | .unknownDiag _ _ => none

end Sys2Proof.Machine
end

