-- ==== Sys2Proof/Laws/Render.lean ====
section
/-! SUPPORT. What the two name tables and the hexadecimal texts always are, whatever the open values (R8, R94, R95,
R98). -/

namespace Sys2Proof.Machine

/-- The acknowledge-code table has an explicit "Reserved" entry. -/
theorem ackName_has_reserved : ∃ ack, ackName ack = "Reserved" :=
  ⟨Config.ackReservedCode, if_pos rfl⟩

/-- The register-address table has an explicit "Reserved" entry. -/
theorem addrName_has_reserved : ∃ a, addrName a = "Reserved" :=
  ⟨Config.addrReservedCode, if_pos rfl⟩

/-- The digits 0 to 9 have one form, whatever the case. -/
theorem hexDigit_decimal {d : Nat} (h : d < 10) (upper : Bool) : hexDigit upper d = Char.ofNat (48 + d) :=
  if_pos h

end Sys2Proof.Machine
end

