-- ==== Sys2Proof/Tests/Slice0.lean ====
section
/-! SUPPORT. Tests: ill-formed terms, one written-out record per constructor, single steps taken from the vectors of
`95_test_vectors.md` and `96_test_vectors_jtag_programs.md` and the examples of the rules, and one witness for the
hypotheses of each statement that has some. -/

open Sys2Proof Sys2Proof.Machine

namespace Sys2Proof.Tests

/-! ### Helpers -/

/-- The next state, if there is one. -/
def after (o : Host.Outcome State Fault Refusal) : Option State :=
  match o with
  | .next t => some t
  | .fault _ => none
  | .refused _ => none

/-- cfgA of the vectors with an open batch (sample rate 1 000 000, threshold 384), at an edge-tracking state. -/
def tracking (prevLevel : Bool) (prevPos oldpl anchor : Pos) : EmRegs :=
  { EmRegs.reset with
    samplerate := 1000000#32, batchOk := true, havePrev := true, prevLevel := prevLevel, prevPos := prevPos,
    oldpl := oldpl, lastBitPos := anchor }

/-- The reset state with these EM registers. -/
def emState (e : EmRegs) : State := { State.reset with em := e }

/-- The reset state with the JT unit in `st`. -/
def jtState (st : JtSt) : State := { State.reset with jt := ⟨st, false⟩ }

/-- The reset state with the JT unit halted in `st`. -/
def halted (st : JtSt) : State := { State.reset with jt := ⟨st, true⟩ }

/-- A JT vector with a sample range. -/
def cmd (len : Len) (val : Vec) (start stop : Pos) : JtCommand := ⟨len, val, start, stop⟩

/-- The EM registers and stream after an op on `emState e`. -/
def emAfter (i : Instr) (e : EmRegs) : Option (EmRegs × List EmAnnotation) :=
  (after (exec i (emState e))).map fun t => (t.em, t.emStream)

/-- The JT registers and stream after an op in the state `st`. -/
def jtAfter (i : Instr) (st : JtSt) : Option (JtRegs × List JtAnnotation) :=
  (after (exec i (jtState st))).map fun t => (t.jt, t.jtStream)

/-! ### Ill-formed terms are refused, and boundary terms are not -/

theorem test_len_65_is_ill_formed : (Instr.jtCmdIrTdi (cmd 65#7 0#64 0#64 0#64)).wellFormed = false := by decide
theorem test_len_64_is_well_formed : (Instr.jtCmdDrTdi (cmd 64#7 0#64 0#64 0#64)).wellFormed = true := by decide
theorem test_layout_len_65_is_ill_formed :
    (Instr.drAbort .tdo (cmd 65#7 0#64 0#64 0#64)).wellFormed = false := by decide
theorem test_extra_61_is_ill_formed : (Instr.irIdcode ⟨61#6, 0#60, 0#64, 0#64⟩).wellFormed = false := by decide
theorem test_extra_60_is_well_formed : (Instr.irIdcode ⟨60#6, 0#60, 0#64, 0#64⟩).wellFormed = true := by decide
theorem test_known_pattern_is_not_unknown :
    (Instr.irUnknown 0b1010#4 ⟨0#6, 0#60, 0#64, 0#64⟩).wellFormed = false := by decide

/-! ### Decoding: a record written out for every constructor

Codes from R82, R85, R87, R88 and R46; operands by R82, R86, R104; the fields' places by log entry 1. -/

theorem test_decode_emCfgPolarity : decode (BitVec.ofNat 208 (0b000 + 1 * 2 ^ 16)) = .ok (.emCfgPolarity true) := rfl
theorem test_decode_emCfgDatarate : decode (BitVec.ofNat 208 (0b001 + 2 * 2 ^ 16)) = .ok (.emCfgDatarate 2#2) := rfl
theorem test_decode_emCfgCoilfreq :
    decode (BitVec.ofNat 208 (0b010 + 134000 * 2 ^ 16)) = .ok (.emCfgCoilfreq 134000#32) := rfl
theorem test_decode_emSetSamplerate :
    decode (BitVec.ofNat 208 (0b011 + 1000000 * 2 ^ 16)) = .ok (.emSetSamplerate 1000000#32) := rfl
theorem test_decode_emBatch :
    decode (BitVec.ofNat 208 (0b100 + 1000 * 2 ^ 16 + 2000 * 2 ^ 80)) = .ok (.emBatch 1000#64 2000#64) := rfl
theorem test_decode_emSample :
    decode (BitVec.ofNat 208 (0b101 + 1768 * 2 ^ 16 + 3 * 2 ^ 80)) = .ok (.emSample 1768#64 true) := rfl
theorem test_decode_emReserved6 : decode (BitVec.ofNat 208 (0b110 + 5 * 2 ^ 16 + 5 * 2 ^ 80)) = .ok .emReserved6 := rfl
theorem test_decode_emReserved7 : decode (BitVec.ofNat 208 0b111) = .ok .emReserved7 := rfl
theorem test_decode_jtCmdIrTdi :
    decode (BitVec.ofNat 208 (0b0010000 + 4 * 2 ^ 8 + 0xE * 2 ^ 16 + 100 * 2 ^ 80 + 140 * 2 ^ 144)) =
      .ok (.jtCmdIrTdi (cmd 4#7 0xE#64 100#64 140#64)) := rfl
theorem test_decode_jtCmdDrTdi :
    decode (BitVec.ofNat 208 (0b0010001 + 35 * 2 ^ 8 + 0x7A * 2 ^ 16 + 700 * 2 ^ 80 + 1050 * 2 ^ 144)) =
      .ok (.jtCmdDrTdi (cmd 35#7 0x7A#64 700#64 1050#64)) := rfl
theorem test_decode_jtCmdDrTdo :
    decode (BitVec.ofNat 208 (0b0010010 + 32 * 2 ^ 8 + 0x3BA00477 * 2 ^ 16 + 200 * 2 ^ 80 + 520 * 2 ^ 144)) =
      .ok (.jtCmdDrTdo (cmd 32#7 0x3BA00477#64 200#64 520#64)) := rfl
theorem test_decode_jtCmdReservedSelector :
    decode (BitVec.ofNat 208 (0b0010011 + 64 * 2 ^ 8)) = .ok (.jtCmdReservedSelector (cmd 64#7 0#64 0#64 0#64)) := rfl
theorem test_decode_irBypass : decode (BitVec.ofNat 208 0b1111) = .ok (.irBypass ⟨0#6, 0#60, 0#64, 0#64⟩) := rfl
theorem test_decode_irIdcode :
    decode (BitVec.ofNat 208 (0b1110 + 3 * 2 ^ 8 + 0b101 * 2 ^ 16)) = .ok (.irIdcode ⟨3#6, 5#60, 0#64, 0#64⟩) := rfl
theorem test_decode_irDpacc : decode (BitVec.ofNat 208 0b1010) = .ok (.irDpacc ⟨0#6, 0#60, 0#64, 0#64⟩) := rfl
theorem test_decode_irApacc : decode (BitVec.ofNat 208 0b1011) = .ok (.irApacc ⟨0#6, 0#60, 0#64, 0#64⟩) := rfl
theorem test_decode_irAbort : decode (BitVec.ofNat 208 0b1000) = .ok (.irAbort ⟨0#6, 0#60, 0#64, 0#64⟩) := rfl
theorem test_decode_irUnknown : decode (BitVec.ofNat 208 0b0100101) = .ok (.irUnknown 0b0101#4 ⟨0#6, 0#60, 0#64, 0#64⟩) := rfl
theorem test_decode_irUnknown_high : decode (BitVec.ofNat 208 0b1001) = .ok (.irUnknown 0b1001#4 ⟨0#6, 0#60, 0#64, 0#64⟩) := rfl
theorem test_decode_drBypass :
    decode (BitVec.ofNat 208 (0b0011001 + 1 * 2 ^ 8)) = .ok (.drBypass (cmd 1#7 0#64 0#64 0#64)) := rfl
theorem test_decode_drIdcode :
    decode (BitVec.ofNat 208 (0b0011010 + 32 * 2 ^ 8 + 2 ^ 15)) = .ok (.drIdcode .tdo (cmd 32#7 0#64 0#64 0#64)) := rfl
theorem test_decode_drDpacc :
    decode (BitVec.ofNat 208 (0b0011011 + 35 * 2 ^ 8)) = .ok (.drDpacc .tdi (cmd 35#7 0#64 0#64 0#64)) := rfl
theorem test_decode_drApacc :
    decode (BitVec.ofNat 208 (0b0011100 + 35 * 2 ^ 8)) = .ok (.drApacc .tdi (cmd 35#7 0#64 0#64 0#64)) := rfl
theorem test_decode_drAbort :
    decode (BitVec.ofNat 208 (0b0011101 + 32 * 2 ^ 8)) = .ok (.drAbort .tdi (cmd 32#7 0#64 0#64 0#64)) := rfl
theorem test_decode_drUnknown :
    decode (BitVec.ofNat 208 (0b0011110 + 4 * 2 ^ 8 + 2 ^ 15)) = .ok (.drUnknown .tdo (cmd 4#7 0#64 0#64 0#64)) := rfl
theorem test_decode_datarates :
    decode (BitVec.ofNat 208 0b0010100) = .ok .datarate64 ∧ decode (BitVec.ofNat 208 0b0010101) = .ok .datarate32 ∧
    decode (BitVec.ofNat 208 0b0010110) = .ok .datarate16 ∧ decode (BitVec.ofNat 208 0b0010111) = .ok .datarateReserved :=
  ⟨rfl, rfl, rfl, rfl⟩
theorem test_decode_reset : decode (BitVec.ofNat 208 (2 ^ 7 + 0b101)) = .ok .reset := rfl

/-! Records that are no op are refused by name. -/

theorem test_refuse_len_65 : decode (BitVec.ofNat 208 (0b0010000 + 65 * 2 ^ 8)) = .error .vectorTooLong := rfl
theorem test_refuse_pattern_len : decode (BitVec.ofNat 208 (0b0001111 + 61 * 2 ^ 8)) = .error .vectorTooLong := rfl
theorem test_refuse_form : decode (BitVec.ofNat 208 0b0101000) = .error .unknownForm := rfl
theorem test_refuse_layout : decode (BitVec.ofNat 208 0b0011000) = .error .unknownLayout := rfl
theorem test_refuse_bypass_tdo : decode (BitVec.ofNat 208 (0b0011001 + 2 ^ 15)) = .error .bypassOnTdo := rfl
theorem test_step_refuses_no_op :
    step (State.reset.present (BitVec.ofNat 208 0b0101000)) = .refused (.undecodable .unknownForm) := rfl

/-! The op table's words, read through the fixed interface (log entry 3). -/

theorem test_table_word_em : decodeTableWord 8 5 = some (.emSample 0#64 false) := rfl
theorem test_table_word_ir : decodeTableWord 8 14 = some (.irIdcode ⟨0#6, 0#60, 0#64, 0#64⟩) := rfl
theorem test_table_word_runs :
    (after (step (State.reset.withFetchWord 8 14))).map (fun t => t.jt.st) = some .idcode := by decide

/-! ### Configuration and batch (V1, V3) -/

theorem test_polarity : emAfter (.emCfgPolarity true) EmRegs.reset = some ({ EmRegs.reset with polLow := true }, []) := by
  decide
theorem test_datarate_16 :
    emAfter (.emCfgDatarate 2#2) EmRegs.reset = some ({ EmRegs.reset with datarate := .r16 }, []) := by decide
theorem test_datarate_code_11_is_ignored :
    emAfter (.emCfgDatarate 3#2) { EmRegs.reset with datarate := .r16 } =
      some ({ EmRegs.reset with datarate := .r16 }, []) := by decide
theorem test_datarate_rows :
    (emAfter .datarate64 { EmRegs.reset with datarate := .r16 }).map (fun r => r.1.datarate) = some .r64 ∧
    (emAfter .datarate32 EmRegs.reset).map (fun r => r.1.datarate) = some .r32 ∧
    (emAfter .datarate16 EmRegs.reset).map (fun r => r.1.datarate) = some .r16 ∧
    (emAfter .datarateReserved EmRegs.reset).map (fun r => r.1.datarate) = some .r64 := by decide
theorem test_coilfreq :
    emAfter (.emCfgCoilfreq 134000#32) EmRegs.reset = some ({ EmRegs.reset with coil := 134000#32 }, []) := by decide
theorem test_coilfreq_zero_is_ignored : emAfter (.emCfgCoilfreq 0#32) EmRegs.reset = some (EmRegs.reset, []) := by
  decide
theorem test_samplerate_opens_no_batch :
    emAfter (.emSetSamplerate 1000000#32) EmRegs.reset =
      some ({ EmRegs.reset with samplerate := 1000000#32 }, []) := by decide
theorem test_batch_without_rate_faults :
    (after (exec (.emBatch 0#64 1000#64) State.reset)).map
      (fun t => (t.em.batchOk, t.em.cfgFault, t.emPort.faultCode, t.emStream)) = some (false, true, 1#2, []) := by decide
theorem test_batch_ignores_its_bounds :
    emAfter (.emBatch 9#64 3#64) { EmRegs.reset with samplerate := 1000000#32 } =
      some ({ EmRegs.reset with samplerate := 1000000#32, batchOk := true }, []) := by decide
theorem test_reserved_em_ops :
    emAfter .emReserved6 (tracking true 5#64 3#64 0#64) = some (tracking true 5#64 3#64 0#64, []) ∧
    emAfter .emReserved7 (tracking true 5#64 3#64 0#64) = some (tracking true 5#64 3#64 0#64, []) := by decide

/-! ### Samples (S1, V10 and the examples of R148 to R151, R178, R184) -/

/-- R148: long after long. -/
theorem test_long_after_long :
    (emAfter (.emSample 2792#64 true) (tracking false 2280#64 512#64 0#64)).map (fun r => r.2) =
      some [⟨.bit, 2024#64, 2536#64, 0#4⟩] := by decide
/-- R149, active-low: the pin was 1, so the value is 0; the anchor is not written. -/
theorem test_long_after_short_active_low :
    (emAfter (.emSample 2280#64 false) { tracking true 1768#64 256#64 7#64 with polLow := true }).map
      (fun r => (r.2, r.1.lastBitPos, r.1.oldpl)) = some ([⟨.bit, 1512#64, 2024#64, 0#4⟩], 7#64, 512#64) := by decide
/-- R150: short after long, with its anchor. -/
theorem test_short_after_long :
    (emAfter (.emSample 3560#64 true) (tracking false 3304#64 512#64 0#64)).map (fun r => (r.2, r.1.lastBitPos)) =
      some ([⟨.bit, 3048#64, 3560#64, 0#4⟩], 3560#64) := by decide
/-- R151: the counter-example, in which the guard is false. -/
theorem test_short_after_short_guard :
    (emAfter (.emSample 3816#64 true) (tracking false 3560#64 256#64 3560#64)).map
      (fun r => (r.2, r.1.lastBitPos, r.1.prevPos)) = some ([], 3560#64, 3816#64) := by decide
/-- R155: halving an odd length rounds down. -/
theorem test_odd_length_rounds_down :
    (emAfter (.emSample 2793#64 true) (tracking false 2280#64 512#64 0#64)).map (fun r => r.2) =
      some [⟨.bit, 2024#64, 2537#64, 0#4⟩] := by decide
/-- R271: an edge at the position of the last edge is refused. -/
theorem test_repeated_position_is_refused :
    exec (.emSample 2280#64 true) (emState (tracking false 2280#64 512#64 0#64)) = .refused .positionNotIncreasing := rfl

/-- R178: the parity bit after `0, 1, 1, 0`. -/
theorem test_parity_bit :
    (({ EmRegs.reset with fs := .payload, pcnt := 4, nib := 6#4, gstart := 8680#64, dstop := 10728#64 } :
      EmRegs).frameStep
      ⟨false, 10728#64, 11240#64⟩).2 =
      [⟨.bit, 10728#64, 11240#64, 0#4⟩, ⟨.data, 8680#64, 10728#64, 6#4⟩, ⟨.parity, 10728#64, 11240#64, 0#4⟩,
       ⟨.rowparVerdict, 10728#64, 11240#64, 1#4⟩] := by decide
/-- R184: the stop bit, with matching columns `0, 1, 0, 0`. -/
theorem test_stop_bit :
    (({ EmRegs.reset with
        fs := .trailer, tcnt := 4, col := ⟨false, true, false, false⟩,
        tb := ⟨false, true, false, false⟩, tstart := 31720#64, tstop := 33768#64 } : EmRegs).frameStep
      ⟨false, 33768#64, 34280#64⟩).2 =
      [⟨.bit, 33768#64, 34280#64, 0#4⟩, ⟨.colparField, 31720#64, 33768#64, 4#4⟩, ⟨.stopbit, 33768#64, 34280#64, 0#4⟩,
       ⟨.colparVerdict, 31720#64, 33768#64, 1#4⟩] := by decide

/-! ### JT commands (P3, V40 to V47 and the examples of R204 to R215) -/

theorem test_ir_select_ignores_high_bits :
    jtAfter (.jtCmdIrTdi (cmd 7#7 0b0001110#64 100#64 140#64)) .idle =
      some (⟨.idcode, false⟩, [⟨100#64, 140#64, .irSelect .idcode⟩]) := by decide
theorem test_short_ir_vector_is_unknown :
    (jtAfter (.jtCmdIrTdi (cmd 3#7 0b1111#64 0#64 0#64)) .idle).map (fun r => r.1.st) = some .unknown := by decide
theorem test_pattern_rows :
    (jtAfter (.irBypass ⟨0#6, 0#60, 0#64, 0#64⟩) .idle).map (fun r => r.1.st) = some .bypass ∧
    (jtAfter (.irIdcode ⟨60#6, 1#60, 0#64, 0#64⟩) .idle).map (fun r => r.1.st) = some .idcode ∧
    (jtAfter (.irDpacc ⟨0#6, 0#60, 0#64, 0#64⟩) .idle).map (fun r => r.1.st) = some .dpacc ∧
    (jtAfter (.irApacc ⟨0#6, 0#60, 0#64, 0#64⟩) .idle).map (fun r => r.1.st) = some .apacc ∧
    (jtAfter (.irAbort ⟨0#6, 0#60, 0#64, 0#64⟩) .idle).map (fun r => r.1.st) = some .abort ∧
    (jtAfter (.irUnknown 0b0101#4 ⟨0#6, 0#60, 0#64, 0#64⟩) .idle).map (fun r => r.1.st) = some .unknown := by decide
theorem test_ir_load_outside_idle_is_dropped :
    jtAfter (.jtCmdIrTdi (cmd 4#7 0xE#64 1150#64 1190#64)) .apacc = some (⟨.apacc, false⟩, []) := by decide
theorem test_reserved_selector_is_ignored :
    jtAfter (.jtCmdReservedSelector (cmd 4#7 0xE#64 0#64 0#64)) .idle = some (⟨.idle, false⟩, []) := by decide
theorem test_bypass_takes_only_tdi :
    jtAfter (.jtCmdDrTdo (cmd 1#7 1#64 3200#64 3210#64)) .bypass = some (⟨.bypass, false⟩, []) ∧
    jtAfter (.drBypass (cmd 1#7 0#64 3200#64 3210#64)) .bypass =
      some (⟨.idle, false⟩, [⟨3200#64, 3210#64, .bypassRaw 1#7 0#64⟩]) := by decide
theorem test_idcode :
    jtAfter (.drIdcode .tdo (cmd 32#7 0x3BA00477#64 200#64 520#64)) .idcode =
      some (⟨.idle, false⟩, [⟨200#64, 520#64, .idcode 32#7 0x3BA00477#64⟩]) := by decide
theorem test_dpacc :
    jtAfter (.drDpacc .tdi (cmd 35#7 0x7A#64 700#64 1050#64)) .dpacc =
      some (⟨.idle, false⟩, [⟨700#64, 1050#64, .dataIn .dpacc 0xF#32 1#2 false⟩,
        ⟨700#64, 1050#64, .dataOut .dpacc 0xF#32 2#3⟩]) := by decide
theorem test_apacc :
    jtAfter (.drApacc .tdo (cmd 35#7 0x6F56DF77A#64 1200#64 1550#64)) .apacc =
      some (⟨.idle, false⟩, [⟨1200#64, 1550#64, .dataIn .apacc 0xDEADBEEF#32 1#2 false⟩,
        ⟨1200#64, 1550#64, .dataOut .apacc 0xDEADBEEF#32 2#3⟩]) := by decide
/-- S7: bit 31 adds the warning; R212: bit 33 does not. -/
theorem test_abort :
    jtAfter (.jtCmdDrTdi (cmd 32#7 0x80000001#64 500#64 564#64)) .abort =
      some (⟨.idle, false⟩, [⟨500#64, 564#64, .abortStatus true⟩, ⟨500#64, 564#64, .abortReservedWarn⟩]) ∧
    jtAfter (.drAbort .tdi (cmd 35#7 0x200000000#64 500#64 564#64)) .abort =
      some (⟨.idle, false⟩, [⟨500#64, 564#64, .abortStatus false⟩]) := by decide
theorem test_unknown :
    jtAfter (.drUnknown .tdo (cmd 4#7 0b1010#64 3400#64 3440#64)) .unknown =
      some (⟨.idle, false⟩, [⟨3400#64, 3440#64, .unknownDiag 4#7 0b1010#64⟩]) := by decide
/-- R221: the malformed state raises, whatever the selector. -/
theorem test_malformed_state_raises :
    (after (exec (.jtCmdReservedSelector (cmd 0#7 0#64 0#64 0#64)) (jtState .code7))).map
      (fun t => (t.jt, t.jtPort)) = some (⟨.code7, true⟩, ⟨0#2, [], 2#2⟩) := by decide
theorem test_reset_clears_both_flags :
    (after (exec .reset { halted .code7 with em := { EmRegs.reset with cfgFault := true, pcnt := 17 } })).map
      (fun t => (t.em, t.jt)) = some (EmRegs.reset, JtRegs.reset) := by decide

/-! ### Texts (R98) -/

/-- A nibble below 10 has one text, whatever the open case. -/
theorem test_data_text : (⟨.data, 0#64, 0#64, 7#4⟩ : EmAnnotation).text = some "7" := rfl
/-- The value of S6, in the digit case of the vectors. -/
theorem test_hex_text : hexText true 0 0x3BA00477#64 = "3BA00477" ∧ hexText false 2 0xAF#64 = "00af" ∧
    hexText true 0 0#64 = "0" := by decide

/-! ### Witnesses: a concrete state and operands for the hypotheses of each statement that has some

A conjunct per clause, at a boundary value of its range. -/

/-- A sample that is an edge in order. -/
theorem tracking_atEdge {prevLevel level : Bool} {prevPos position : Pos} (oldpl anchor : Pos)
    (hl : level ≠ prevLevel) (hp : prevPos < position) :
    AtEdge (emState (tracking prevLevel prevPos oldpl anchor)) position level := ⟨rfl, rfl, hl, hp⟩

/-- The tracking invariant of an edge-tracking state. -/
theorem tracking_inv {prevLevel : Bool} {prevPos oldpl anchor : Pos} (ho : oldpl ≤ prevPos) (ha : anchor ≤ prevPos) :
    (tracking prevLevel prevPos oldpl anchor).TrackInv := ⟨fun h => absurd (show true = false from h) (by decide), ho, ha⟩

/-- A state in mid-payload with an open batch and the JT unit waiting for a transfer. -/
def busy : State :=
  { State.reset with
    em := { tracking false 3304#64 512#64 3000#64 with fs := .payload, pcnt := 6, nib := 1#4, rpar := true, cfgFault := true }
    jt := ⟨.dpacc, false⟩ }

theorem busy_inv : busy.Inv := by
  refine ⟨⟨by decide, by decide, by decide, by decide, by decide, by decide, by decide, by decide, by decide⟩,
    ⟨by decide, by decide, by decide⟩, ?_, by decide, rfl⟩
  show (125000#32 : Freq) ≠ 0#32
  decide

theorem witness_StepPerformsTheNextOp :
    (∃ w rest i, (busy.present 7#208).pending = w :: rest ∧ decode w = .ok i) ∧ busy.pending = [] :=
  ⟨⟨7#208, [], .emReserved7, rfl, rfl⟩, rfl⟩
theorem witness_DecodeInvertsEncode :
    (Instr.jtCmdDrTdo (cmd 64#7 (-1) 5#64 9#64)).wellFormed = true ∧
    (Instr.irUnknown 0b1101#4 ⟨60#6, -1, 5#64, 9#64⟩).wellFormed = true := by decide
theorem witness_DecodedOpsAreWellFormed :
    decode (BitVec.ofNat 208 (0b0010010 + 64 * 2 ^ 8)) = .ok (.jtCmdDrTdo (cmd 64#7 0#64 0#64 0#64)) := rfl
theorem witness_JtSelectorCodesDecode :
    (cmd 64#7 1#64 2#64 3#64).len.toNat ≤ 64 ∧ 64 < (cmd 65#7 1#64 2#64 3#64).len.toNat ∧ 3 < 4 := by decide
theorem witness_ResetPinOverridesEveryOp :
    (busy.present (BitVec.ofNat 208 (2 ^ 7 + 5))).pending = [BitVec.ofNat 208 (2 ^ 7 + 5)] ∧
    (BitVec.ofNat 208 (2 ^ 7 + 5)).getLsbD 7 = true := by decide
theorem witness_ConfigOpsWriteTheirRegister : (1#32 : Freq) ≠ 0#32 := by decide
theorem witness_BatchChecksTheSampleRate :
    (let w : OpWord := BitVec.ofNat 208 (0b100 + 9 * 2 ^ 16)
     w.rst = 0#1 ∧ w.form = 0#4 ∧ w.code = 0b100#3) ∧
    busy.em.samplerate ≠ 0#32 ∧ State.reset.em.samplerate = 0#32 := by decide
theorem witness_ReservedEmOpsDoNothing :
    (let w : OpWord := BitVec.ofNat 208 (0b110 + 5 * 2 ^ 16)
     w.rst = 0#1 ∧ w.form = 0#4 ∧ w.code = 0b110#3) ∧
    (let w : OpWord := BitVec.ofNat 208 0b111
     w.rst = 0#1 ∧ w.form = 0#4 ∧ w.code = 0b111#3) := by decide
theorem witness_ClassIsComparisonWithThreshold : EmRegs.reset.CoilInv := by
  show (125000#32 : Freq) ≠ 0#32
  decide
theorem witness_ClassIsComparisonWithThreshold_tie : (tracking true 0#64 0#64 0#64).tCmp 384#64 = .equal := by decide
theorem witness_WorkedTimingExample :
    busy.em.samplerate = 1000000#32 ∧ busy.em.coil = 125000#32 ∧ busy.em.datarate = .r64 := by decide
theorem witness_ZeroRateMakesEveryPulseLong :
    EmRegs.reset.CoilInv ∧ EmRegs.reset.samplerate = 0#32 ∧ (1#64 : Pos) ≠ 0#64 :=
  ⟨witness_ClassIsComparisonWithThreshold, rfl, by decide⟩
theorem witness_SamplesOutsideABatchAreDiscarded : State.reset.em.batchOk = false := rfl
theorem witness_OnlyLevelChangesAreEdges :
    (let s := emState { EmRegs.reset with samplerate := 1#32, batchOk := true }
     s.em.batchOk = true ∧ s.em.havePrev = false) ∧
    (busy.em.batchOk = true ∧ busy.em.havePrev = true ∧ false = busy.em.prevLevel) := by decide
theorem witness_EdgesOutOfOrderAreRefused :
    busy.em.batchOk = true ∧ busy.em.havePrev = true ∧ true ≠ busy.em.prevLevel ∧
    (3304#64 : Pos).toNat ≤ busy.em.prevPos.toNat := by decide
theorem witness_DeadZoneEdgesEmitNothing :
    (AtEdge (emState (tracking false 1000#64 256#64 0#64)) 1384#64 true ∧
      (tracking false 1000#64 256#64 0#64).tCmp (1384#64 - 1000#64) = .equal) ∧
    (AtEdge (emState (tracking false 1000#64 384#64 0#64)) 1001#64 true ∧
      (tracking false 1000#64 384#64 0#64).tCmp 384#64 = .equal) :=
  ⟨⟨tracking_atEdge _ _ (by decide) (by decide), by decide⟩, ⟨tracking_atEdge _ _ (by decide) (by decide), by decide⟩⟩
theorem witness_LongPulsesEmit :
    (AtEdge (emState (tracking false 385#64 385#64 0#64)) 770#64 true ∧ (tracking false 385#64 385#64 0#64).TrackInv ∧
      (tracking false 385#64 385#64 0#64).tCmp (770#64 - 385#64) = .long ∧
      (tracking false 385#64 385#64 0#64).tCmp 385#64 = .long) ∧
    (AtEdge (emState (tracking true 383#64 383#64 0#64)) 768#64 false ∧ (tracking true 383#64 383#64 0#64).TrackInv ∧
      (tracking true 383#64 383#64 0#64).tCmp (768#64 - 383#64) = .long ∧
      (tracking true 383#64 383#64 0#64).tCmp 383#64 = .short) :=
  ⟨⟨tracking_atEdge _ _ (by decide) (by decide), tracking_inv (by decide) (by decide), by decide, by decide⟩,
   ⟨tracking_atEdge _ _ (by decide) (by decide), tracking_inv (by decide) (by decide), by decide, by decide⟩⟩
theorem witness_ShortPulsesEmitAndAnchor :
    (AtEdge (emState (tracking false 385#64 385#64 0#64)) 768#64 true ∧ (tracking false 385#64 385#64 0#64).TrackInv ∧
      (tracking false 385#64 385#64 0#64).tCmp (768#64 - 385#64) = .short ∧
      (tracking false 385#64 385#64 0#64).tCmp 385#64 = .long) ∧
    (AtEdge (emState (tracking false 3816#64 256#64 3560#64)) 3817#64 true ∧
      (tracking false 3816#64 256#64 3560#64).TrackInv ∧
      (tracking false 3816#64 256#64 3560#64).tCmp (3817#64 - 3816#64) = .short ∧
      (tracking false 3816#64 256#64 3560#64).tCmp 256#64 = .short ∧
      (3560#64 : Pos).toNat ≤ (3816#64 : Pos).toNat - (256#64 : Pos).toNat) ∧
    (AtEdge (emState (tracking false 3816#64 256#64 3561#64)) 3817#64 true ∧
      (tracking false 3816#64 256#64 3561#64).TrackInv ∧
      (tracking false 3816#64 256#64 3561#64).tCmp (3817#64 - 3816#64) = .short ∧
      (tracking false 3816#64 256#64 3561#64).tCmp 256#64 = .short ∧
      (3816#64 : Pos).toNat - (256#64 : Pos).toNat < (3561#64 : Pos).toNat) :=
  ⟨⟨tracking_atEdge _ _ (by decide) (by decide), tracking_inv (by decide) (by decide), by decide, by decide⟩,
   ⟨tracking_atEdge _ _ (by decide) (by decide), tracking_inv (by decide) (by decide), by decide, by decide, by decide⟩,
   ⟨tracking_atEdge _ _ (by decide) (by decide), tracking_inv (by decide) (by decide), by decide, by decide, by decide⟩⟩
theorem witness_SymbolsStraddleThePreviousEdge :
    (tracking false 0#64 0#64 0#64).TrackInv ∧ (0#64 : Pos) < 1#64 ∧
    (tracking false 0#64 0#64 0#64).edgeArm 1#64 = some .shortAfterShort :=
  ⟨tracking_inv (by decide) (by decide), by decide, by decide⟩
theorem witness_OrderedSamplesComplete :
    ((tracking false 5#64 0#64 0#64).TrackInv ∧ (5#64 : Pos) < 6#64) ∧
    (AtEdge (emState (tracking false 5#64 6#64 0#64)) 390#64 true ∧
      (tracking false 5#64 6#64 0#64).edgeArm 390#64 = some .longAfterShort ∧ (5#64 : Pos).toNat < (6#64 : Pos).toNat) :=
  ⟨⟨tracking_inv (by decide) (by decide), by decide⟩,
   ⟨tracking_atEdge _ _ (by decide) (by decide), by decide, by decide⟩⟩
theorem witness_header_statements :
    (let e : EmRegs := { EmRegs.reset with run := 7 }
     e.fs = .header ∧ e.run < 8) ∧
    (let e : EmRegs := { EmRegs.reset with run := 8 }
     e.fs = .header ∧ e.run = 8) ∧ busy.em.fs ≠ .header := by decide
theorem witness_payload_statements :
    (let e : EmRegs := { EmRegs.reset with fs := .payload, pcnt := 48 }
     e.fs = .payload ∧ e.pcnt % 5 < 4) ∧
    (let e : EmRegs := { EmRegs.reset with fs := .payload, pcnt := 49 }
     e.fs = .payload ∧ e.pcnt % 5 = 4 ∧ e.pcnt = 49) ∧
    (let e : EmRegs := { EmRegs.reset with fs := .payload, pcnt := 44 }
     e.fs = .payload ∧ e.pcnt % 5 = 4 ∧ e.pcnt ≠ 49) ∧
    (let e : EmRegs := { EmRegs.reset with fs := .payload, pcnt := 45 }
     e.fs = .payload ∧ e.pcnt % 5 = 0 ∧ e.nib = 0#4 ∧ e.rpar = false) := by decide
theorem witness_trailer_statements :
    (let e : EmRegs := { EmRegs.reset with fs := .trailer, tcnt := 3 }
     e.fs = .trailer ∧ e.tcnt < 4) ∧
    (let e : EmRegs := { EmRegs.reset with fs := .trailer, tcnt := 4 }
     e.fs = .trailer ∧ e.tcnt = 4) := by decide
theorem witness_whole_frame_statements :
    EmRegs.reset.FrameAtRest ∧ (List.replicate 9 (⟨true, 1#64, 2#64⟩ : BitSymbol)).length = 9 ∧
    (∀ x ∈ List.replicate 9 (⟨true, 1#64, 2#64⟩ : BitSymbol), x.value = true) ∧
    (List.replicate 10 (List.replicate 5 (⟨false, 1#64, 2#64⟩ : BitSymbol))).length = 10 ∧
    (∀ g ∈ List.replicate 10 (List.replicate 5 (⟨false, 1#64, 2#64⟩ : BitSymbol)), g.length = 5) ∧
    (List.replicate 5 (⟨true, 1#64, 2#64⟩ : BitSymbol)).length = 5 :=
  ⟨⟨rfl, rfl, rfl, rfl, rfl, rfl, rfl, rfl⟩, by decide, by decide, by decide, by decide, by decide⟩
theorem witness_declared_state_statements :
    ∀ st ∈ [JtSt.idle, .bypass, .idcode, .dpacc, .apacc, .abort, .unknown],
      (jtState st).jt.fault = false ∧ (jtState st).jt.st = st ∧ (jtState st).jt.st ≠ .code7 := by decide
theorem witness_PatternRowsSelectTheirState :
    (⟨60#6, -1, 0#64, 0#64⟩ : IrVector).wellFormed = true ∧ knownPattern 0b1001#4 = false := by decide
theorem witness_NonIdleStatesAreLeftOnlyForIdle :
    (∃ t, exec (.drUnknown .tdo (cmd 4#7 5#64 0#64 0#64)) (jtState .unknown) = .next t ∧
      (jtState .unknown).jt.st ≠ .idle ∧ t.jt.st ≠ (jtState .unknown).jt.st) ∧
    (∃ t, exec .reset (halted .code7) = .next t ∧ (halted .code7).jt.st ≠ .idle ∧ t.jt.st ≠ (halted .code7).jt.st) :=
  ⟨⟨_, rfl, by decide, by decide⟩, ⟨_, rfl, by decide, by decide⟩⟩
theorem witness_OnlyDisorderStopsTheMachine :
    busy.Inv ∧ exec (.emSample 3304#64 true) busy = .refused .positionNotIncreasing ∧
    exec (.emSample 3304#64 false) busy = .next busy.quiet := ⟨busy_inv, rfl, rfl⟩
theorem witness_VectorBitsAboveLengthAreIgnored :
    (cmd 4#7 0x1E#64 0#64 0#64).len = (cmd 4#7 0xFFE#64 0#64 0#64).len ∧
    (∀ k < (cmd 4#7 0x1E#64 0#64 0#64).len.toNat, (0x1E#64 : Vec).getLsbD k = (0xFFE#64 : Vec).getLsbD k) ∧
    (∀ k < (cmd 64#7 5#64 0#64 0#64).len.toNat, (5#64 : Vec).getLsbD k = (5#64 : Vec).getLsbD k) :=
  ⟨rfl, by decide, fun _ _ => rfl⟩
theorem witness_OperandRowsAreTheirOps : (⟨60#6, -1, 0#64, 0#64⟩ : IrVector).wellFormed = true := by decide
theorem witness_IdleSelectsByTheTable : (cmd 3#7 0xF#64 0#64 0#64).len.toNat < 4 := by decide
theorem witness_MalformedStateRaises_clear :
    ∃ t, exec (.jtCmdDrTdi (cmd 1#7 0#64 0#64 0#64)) (jtState .bypass) = .next t ∧ (jtState .bypass).jt.st ≠ .code7 :=
  ⟨_, rfl, by decide⟩
theorem witness_MalformedStateRaises :
    isJtOp (.irBypass ⟨0#6, 0#60, 0#64, 0#64⟩) = true ∧ (jtState .code7).jt.st = .code7 ∧
    (jtState .code7).jt.fault = false := by decide
theorem witness_HaltedUnitDiscardsUntilReset :
    (isJtOp (.drIdcode .tdi (cmd 0#7 0#64 0#64 0#64)) = true ∧ (halted .idle).jt.fault = true) ∧
    (∃ t, exec .reset (halted .idle) = .next t ∧ t.jt.fault = false) ∧
    (isEmOp (.emBatch 0#64 0#64) = true ∧ ∃ t, exec (.emBatch 0#64 0#64) State.reset = .next t) :=
  ⟨⟨rfl, rfl⟩, ⟨_, rfl, rfl⟩, ⟨rfl, _, rfl⟩⟩
theorem witness_EachFaultHasOneCause :
    (∃ t, exec (.emBatch 0#64 0#64) State.reset = .next t ∧ t.emPort.faultCode = 1#2) ∧
    (∃ t, exec (.jtCmdDrTdi (cmd 0#7 0#64 0#64 0#64)) (jtState .code7) = .next t ∧ t.jtPort.faultCode = 2#2) :=
  ⟨⟨_, rfl, rfl⟩, ⟨_, rfl, rfl⟩⟩
theorem witness_ConfigFaultFlagIsStickyAndGatesNothing :
    (∃ t, exec .reset busy = .next t ∧ busy.em.cfgFault = true ∧ t.em.cfgFault = false) ∧
    (∃ t, exec (.emBatch 0#64 0#64) State.reset = .next t ∧ State.reset.em.cfgFault = false ∧ t.em.cfgFault = true) :=
  ⟨⟨_, rfl, rfl, rfl⟩, ⟨_, rfl, rfl, rfl⟩⟩
/-- For the step, reading and writing statements over all states: a state of the invariant and ops of both units that
complete there. -/
theorem witness_whole_machine_statements :
    busy.Inv ∧ busy.BatchInv ∧ (∃ t, step busy = .next t) ∧
    (isEmOp (.emSample 3816#64 true) = true ∧ ∃ t, exec (.emSample 3816#64 true) busy = .next t) ∧
    (isJtOp (.drDpacc .tdi (cmd 35#7 0x7A#64 0#64 1#64)) = true ∧
      ∃ t, exec (.drDpacc .tdi (cmd 35#7 0x7A#64 0#64 1#64)) busy = .next t) ∧
    (Instr.emSample 3816#64 true ≠ .emSetSamplerate 0#32) :=
  ⟨busy_inv, fun _ => by decide, ⟨_, rfl⟩, ⟨rfl, _, rfl⟩, ⟨rfl, _, rfl⟩, by decide⟩
theorem witness_UnitsReadOnlyTheirOwnState :
    (let s' : State := { busy with jt := ⟨.idle, true⟩, pending := [7#208] }
     s'.em = busy.em ∧ s'.emStream = busy.emStream) ∧
    (let s' : State := { busy with em := EmRegs.reset }
     s'.jt = busy.jt ∧ s'.jtStream = busy.jtStream) := ⟨⟨rfl, rfl⟩, ⟨rfl, rfl⟩⟩
theorem witness_UnitsCommute :
    ∃ t u, exec (.emSample 3816#64 true) busy = .next t ∧ exec (.drDpacc .tdi (cmd 35#7 0x7A#64 0#64 1#64)) t = .next u :=
  ⟨_, _, rfl, rfl⟩
theorem witness_JtSlotsCarryTheCommand :
    (∃ t, exec (.jtCmdIrTdi (cmd 4#7 0xE#64 1#64 2#64)) (jtState .idle) = .next t ∧
      ∃ x ∈ t.jtPort.slots, x.kind = 0#3) ∧
    (∃ t, exec (.jtCmdDrTdo (cmd 35#7 0x7A#64 1#64 2#64)) (jtState .apacc) = .next t ∧
      (∃ x ∈ t.jtPort.slots, x.kind = 3#3) ∧ ∃ x ∈ t.jtPort.slots, x.kind = 4#3) :=
  ⟨⟨_, rfl, _, .head _, rfl⟩, ⟨_, rfl, ⟨_, .head _, rfl⟩, ⟨_, .tail _ (.head _), rfl⟩⟩⟩

end Sys2Proof.Tests
end

/-! SUPPORT. What the ops of each unit write, as a relation on that unit's registers alone, and what follows for the
state: the invariants of R49 and R155 (O52, O53, O54), the separation of the units (O56, O57), the flag
`em.cfg_fault` (O51) and the reset table (O8). -/

namespace Sys2Proof.Machine

/-! ### What an EM op writes -/

/-- An `EM_SAMPLE` with these operands is an edge in an open batch, in order (R70, R144): `AtEdge`, said of the EM
registers alone. -/
def EmRegs.EdgeDue (e : EmRegs) (position : Pos) (level : Bool) : Prop :=
  e.batchOk = true ∧ e.havePrev = true ∧ level ≠ e.prevLevel ∧ e.prevPos < position

theorem atEdge_iff {s : State} {position : Pos} {level : Bool} :
    AtEdge s position level ↔ s.em.EdgeDue position level :=
  ⟨fun ⟨hb, hh, hl, hp⟩ => ⟨hb, hh, hl, hp⟩, fun ⟨hb, hh, hl, hp⟩ => ⟨hb, hh, hl, hp⟩⟩

/-- An EM op that finds the registers `e` and raises nothing: the registers it leaves and what it emits. The model
does so by `exec_of_writes`, and nothing else by `exec_em_cases`. -/
inductive EmOpWrites (e : EmRegs) : Instr → EmRegs → List EmAnnotation → Prop
  | polarity (b : Bool) : EmOpWrites e (.emCfgPolarity b) { e with polLow := b } []
  | datarate {code : BitVec 2} {d : Datarate} (code_legal : datarateOfCode code = some d) :
      EmOpWrites e (.emCfgDatarate code) { e with datarate := d } []
  | datarateKept {code : BitVec 2} (code_reserved : datarateOfCode code = none) :
      EmOpWrites e (.emCfgDatarate code) e []
  | datarate64 : EmOpWrites e .datarate64 { e with datarate := .r64 } []
  | datarate32 : EmOpWrites e .datarate32 { e with datarate := .r32 } []
  | datarate16 : EmOpWrites e .datarate16 { e with datarate := .r16 } []
  | datarateReserved : EmOpWrites e .datarateReserved e []
  | coilfreq {coil : Freq} (nonzero : coil ≠ 0#32) : EmOpWrites e (.emCfgCoilfreq coil) { e with coil := coil } []
  | coilfreqKept : EmOpWrites e (.emCfgCoilfreq 0#32) e []
  | samplerate (rate : Freq) : EmOpWrites e (.emSetSamplerate rate) { e with samplerate := rate } []
  | batch {a b : Pos} (rate_set : e.samplerate ≠ 0#32) : EmOpWrites e (.emBatch a b) { e with batchOk := true } []
  | noEdge {position : Pos} {level : Bool}
      (ignored : e.batchOk = false ∨ (e.havePrev = true ∧ level = e.prevLevel)) :
      EmOpWrites e (.emSample position level) e []
  | firstSample {position : Pos} {level : Bool} (batch : e.batchOk = true) (unseen : e.havePrev = false) :
      EmOpWrites e (.emSample position level) (e.firstSample position level) []
  | silentEdge {position : Pos} {level : Bool} (due : e.EdgeDue position level)
      (arm_eq : e.edgeArm position = none) :
      EmOpWrites e (.emSample position level) (e.track none position level) []
  | symbolEdge {position : Pos} {level : Bool} {arm : Arm} (due : e.EdgeDue position level)
      (arm_eq : e.edgeArm position = some arm) (in_range : ¬ e.prevPos < arm.reach e.oldpl) :
      EmOpWrites e (.emSample position level)
        ((e.track (some arm) position level).frameStep (e.symbolOf arm position)).1
        ((e.track (some arm) position level).frameStep (e.symbolOf arm position)).2
  | reserved6 : EmOpWrites e .emReserved6 e []
  | reserved7 : EmOpWrites e .emReserved7 e []

/-- An op without effect is an EM op that writes the registers it found and emits nothing. -/
theorem quiet_eq_emFinish (s : State) : s.quiet = s.emFinish s.em [] := by
  simp [State.quiet, State.idleCycle, State.emFinish]

theorem execEmSample_of_edgeDue {s : State} {position : Pos} {level : Bool} (due : s.em.EdgeDue position level) :
    execEmSample position level s = s.edge position level := by
  obtain ⟨hb, hh, hl, hp⟩ := due
  simp [execEmSample, hb, hh, hl, BitVec.not_le.mpr hp]

/-- What `EmOpWrites` says, the op does, in every state with those EM registers. -/
theorem exec_of_writes {s : State} {i : Instr} {regs : EmRegs} {anns : List EmAnnotation}
    (h : EmOpWrites s.em i regs anns) : exec i s = .next (s.emFinish regs anns) := by
  cases h with
  | polarity | datarate64 | datarate32 | datarate16 | samplerate => rfl
  | datarateReserved | coilfreqKept | reserved6 | reserved7 => rw [← quiet_eq_emFinish]; rfl
  | datarate code_legal => simp [exec, execEmCfgDatarate, State.writeDatarate, code_legal]
  | datarateKept code_reserved =>
    simp [exec, execEmCfgDatarate, State.writeDatarate, code_reserved, quiet_eq_emFinish]
  | coilfreq nonzero => simp [exec, execEmCfgCoilfreq, nonzero]
  | batch rate_set => simp [exec, execEmBatch, rate_set]
  | noEdge ignored =>
    rw [← quiet_eq_emFinish]
    rcases ignored with hb | ⟨hh, rfl⟩
    · simp [exec, execEmSample, hb]
    · simp [exec, execEmSample, hh]
  | firstSample batch unseen => simp [exec, execEmSample, batch, unseen]
  | silentEdge due arm_eq => simp [exec, execEmSample_of_edgeDue due, State.edge, arm_eq]
  | symbolEdge due arm_eq in_range =>
    simp [exec, execEmSample_of_edgeDue due, State.edge, arm_eq, in_range]

/-- An `EM_SAMPLE` that completes writes what `EmOpWrites` says. -/
theorem execEmSample_writes {s t : State} {position : Pos} {level : Bool}
    (h : execEmSample position level s = .next t) :
    ∃ regs anns, EmOpWrites s.em (.emSample position level) regs anns ∧ t = s.emFinish regs anns := by
  rcases execEmSample_cases position level s with ⟨ignored, e⟩ | ⟨hb, hh, e⟩ | ⟨-, -, -, -, e⟩ | ⟨at_edge, e⟩
  · rw [e] at h; cases h
    exact ⟨_, _, .noEdge ignored, quiet_eq_emFinish s⟩
  · rw [e] at h; cases h
    exact ⟨_, _, .firstSample hb hh, rfl⟩
  · rw [e] at h; cases h
  · have due := atEdge_iff.mp at_edge
    rw [e] at h
    rcases edge_cases s position level with ⟨ha, e⟩ | ⟨arm, -, -, e⟩ | ⟨arm, r, ha, hr, rfl, e⟩
    · rw [e] at h; cases h
      exact ⟨_, _, .silentEdge due ha, rfl⟩
    · rw [e] at h; cases h
    · rw [e] at h; cases h
      exact ⟨_, _, .symbolEdge due ha hr, rfl⟩

/-- An EM op that completes raises `ConfigurationError` (R129), or writes what `EmOpWrites` says. -/
theorem exec_em_cases {s t : State} {i : Instr} (hi : isEmOp i = true) (h : exec i s = .next t) :
    ((∃ a b, i = .emBatch a b) ∧ s.em.samplerate = 0#32 ∧ t = s.takeFault .configurationError) ∨
    (∃ regs anns, EmOpWrites s.em i regs anns ∧ t = s.emFinish regs anns) := by
  cases i with
  | emCfgPolarity b => cases h; exact .inr ⟨_, _, .polarity b, rfl⟩
  | emSetSamplerate rate => cases h; exact .inr ⟨_, _, .samplerate rate, rfl⟩
  | datarate64 => cases h; exact .inr ⟨_, _, .datarate64, rfl⟩
  | datarate32 => cases h; exact .inr ⟨_, _, .datarate32, rfl⟩
  | datarate16 => cases h; exact .inr ⟨_, _, .datarate16, rfl⟩
  | datarateReserved => cases h; exact .inr ⟨_, _, .datarateReserved, quiet_eq_emFinish s⟩
  | emReserved6 => cases h; exact .inr ⟨_, _, .reserved6, quiet_eq_emFinish s⟩
  | emReserved7 => cases h; exact .inr ⟨_, _, .reserved7, quiet_eq_emFinish s⟩
  | emSample position level => exact .inr (execEmSample_writes h)
  | emCfgDatarate code =>
    cases h
    rcases writeDatarate_cases s code with ⟨d, hd, e⟩ | ⟨hd, e⟩
    · exact .inr ⟨_, _, .datarate hd, e⟩
    · exact .inr ⟨_, _, .datarateKept hd, e.trans (quiet_eq_emFinish s)⟩
  | emCfgCoilfreq coil =>
    by_cases hz : coil = 0#32
    · subst hz; cases h
      exact .inr ⟨_, _, .coilfreqKept, quiet_eq_emFinish s⟩
    · rw [exec_of_writes (.coilfreq hz)] at h; cases h
      exact .inr ⟨_, _, .coilfreq hz, rfl⟩
  | emBatch a b =>
    by_cases hz : s.em.samplerate = 0#32
    · simp only [exec, execEmBatch, if_pos hz] at h; cases h
      exact .inl ⟨⟨a, b, rfl⟩, hz, rfl⟩
    · rw [exec_of_writes (.batch hz)] at h; cases h
      exact .inr ⟨_, _, .batch hz, rfl⟩
  | _ => cases hi

/-- An `EM_BATCH` that finds the sample rate unset raises `ConfigurationError` (R129). -/
theorem exec_emBatch_raises {s : State} {a b : Pos} (h : s.em.samplerate = 0#32) :
    exec (.emBatch a b) s = .next (s.takeFault .configurationError) := by
  simp [exec, execEmBatch, h]

/-! ### Every op -/

/-- The command an op of the JT unit stands for does not depend on the state. -/
theorem exec_jt_command {i : Instr} (hi : isJtOp i = true) : ∃ sel c, ∀ s, exec i s = .next (s.jtCommand sel c) := by
  cases i <;> cases hi <;> exact ⟨_, _, fun _ => rfl⟩

/-- All an op that completes can do: the reset, a batch that raises, an EM op's writes, or a JT command. -/
theorem exec_cases {s t : State} {i : Instr} (h : exec i s = .next t) :
    (i = .reset ∧ t = s.pinReset) ∨
    ((∃ a b, i = .emBatch a b) ∧ s.em.samplerate = 0#32 ∧ t = s.takeFault .configurationError) ∨
    (∃ regs anns, EmOpWrites s.em i regs anns ∧ t = s.emFinish regs anns) ∨
    (∃ sel c, (∀ s', exec i s' = .next (s'.jtCommand sel c)) ∧ t = s.jtCommand sel c) := by
  rcases exec_next_cases h with hr | ⟨hi, -⟩ | ⟨hi, -⟩
  · exact .inl hr
  · rcases exec_em_cases hi h with hf | hw
    · exact .inr (.inl hf)
    · exact .inr (.inr (.inl hw))
  · obtain ⟨sel, c, he⟩ := exec_jt_command hi
    rw [he] at h; cases h
    exact .inr (.inr (.inr ⟨sel, c, he, rfl⟩))

/-! ### The frame invariants of R49 -/

theorem EmRegs.FrameInv.run_eq_zero {e : EmRegs} (h : e.FrameInv) (hfs : e.fs ≠ .header) : e.run = 0 :=
  Nat.eq_zero_of_not_pos (mt h.run_header hfs)

theorem EmRegs.FrameInv.pcnt_eq_zero {e : EmRegs} (h : e.FrameInv) (hfs : e.fs ≠ .payload) : e.pcnt = 0 :=
  Nat.eq_zero_of_not_pos (mt h.pcnt_payload hfs)

theorem EmRegs.FrameInv.tcnt_eq_zero {e : EmRegs} (h : e.FrameInv) (hfs : e.fs ≠ .trailer) : e.tcnt = 0 :=
  Nat.eq_zero_of_not_pos (mt h.tcnt_trailer hfs)

theorem headerStep_frameInv {e : EmRegs} (h : e.FrameInv) (hfs : e.fs = .header) (sym : BitSymbol) :
    (e.headerStep sym).1.FrameInv := by
  have hrun := h.run_le
  have hp := h.pcnt_eq_zero (by simp [hfs])
  have ht := h.tcnt_eq_zero (by simp [hfs])
  unfold EmRegs.headerStep
  split
  · dsimp only [Config.headerRun]
    split
    case isTrue ninth =>
      exact { h with
        run_le := by simp
        run_header := by simp
        pcnt_payload := fun _ => rfl
        tcnt_trailer := by simp [ht]
        header_clear := nofun
        tb_clear := fun _ => (h.header_clear hfs).2 }
    case isFalse not_ninth =>
      exact { h with
        run_le := by dsimp only; omega
        run_header := fun _ => hfs }
  · exact { h with
      run_le := by simp
      run_header := by simp }

theorem payloadStep_frameInv {e : EmRegs} (h : e.FrameInv) (hfs : e.fs = .payload) (sym : BitSymbol) :
    (e.payloadStep sym).1.FrameInv := by
  have hpcnt := h.pcnt_le
  have hrun := h.run_eq_zero (by simp [hfs])
  have htb := h.tb_clear (by simp [hfs])
  unfold EmRegs.payloadStep
  dsimp only [Config.groupBits, Config.dataBits, Config.payloadBits]
  split
  case isTrue data_bit =>
    exact { h with
      pcnt_le := by dsimp only; omega
      pcnt_payload := fun _ => hfs
      group_clear := fun hmod => by dsimp only at hmod; omega
      header_clear := by simp [hfs] }
  case isFalse parity_bit =>
    by_cases full : e.pcnt + 1 = 50
    · simp only [full, if_true]
      exact { h with
        pcnt_le := by simp
        run_header := by simp [hrun]
        pcnt_payload := by simp
        tcnt_trailer := fun _ => rfl
        group_clear := fun _ => ⟨rfl, rfl⟩
        header_clear := nofun
        tb_clear := fun _ => htb }
    · simp only [full, if_false]
      exact { h with
        pcnt_le := by dsimp only; omega
        pcnt_payload := fun _ => hfs
        group_clear := fun _ => ⟨rfl, rfl⟩ }

theorem trailerStep_frameInv {e : EmRegs} (h : e.FrameInv) (hfs : e.fs = .trailer) (sym : BitSymbol) :
    (e.trailerStep sym).1.FrameInv := by
  have hrun := h.run_eq_zero (by simp [hfs])
  have hp := h.pcnt_eq_zero (by simp [hfs])
  unfold EmRegs.trailerStep
  dsimp only [Config.dataBits]
  split
  case isTrue column_bit =>
    exact { h with
      tcnt_le := column_bit
      tcnt_trailer := fun _ => hfs
      header_clear := by simp [hfs]
      tb_clear := by simp [hfs] }
  case isFalse stop_bit =>
    exact { h with
      tcnt_le := by simp
      run_header := by simp [hrun]
      pcnt_payload := by simp [hp]
      tcnt_trailer := by simp
      header_clear := fun _ => ⟨rfl, rfl⟩
      tb_clear := fun _ => rfl }

/-- `FrameStep` keeps the frame invariants, in each of its three states. -/
theorem frameStep_frameInv {e : EmRegs} (h : e.FrameInv) (sym : BitSymbol) : (e.frameStep sym).1.FrameInv := by
  unfold EmRegs.frameStep EmRegs.frameArm
  cases hfs : e.fs with
  | header => exact headerStep_frameInv h hfs sym
  | payload => exact payloadStep_frameInv h hfs sym
  | trailer => exact trailerStep_frameInv h hfs sym

/-- Every EM op keeps the frame invariants: all but `FrameStep` leave the frame registers alone. -/
theorem EmOpWrites.frameInv {e regs : EmRegs} {i : Instr} {anns : List EmAnnotation}
    (hw : EmOpWrites e i regs anns) (h : e.FrameInv) : regs.FrameInv := by
  cases hw with
  | symbolEdge =>
    refine frameStep_frameInv (e := EmRegs.track _ _ _ _) ?_ _
    exact { h with }
  | datarateKept | datarateReserved | coilfreqKept | noEdge | reserved6 | reserved7 => exact h
  | polarity | datarate | datarate64 | datarate32 | datarate16 | coilfreq | samplerate | batch | firstSample
  | silentEdge => exact { h with }

/-! ### The edge-tracking invariants of R155 -/

section FrameStepLeaves
variable (e : EmRegs) (sym : BitSymbol)

@[simp] theorem frameStep_havePrev : (e.frameStep sym).1.havePrev = e.havePrev := by rw [frameStep_keeps]
@[simp] theorem frameStep_prevPos : (e.frameStep sym).1.prevPos = e.prevPos := by rw [frameStep_keeps]
@[simp] theorem frameStep_oldpl : (e.frameStep sym).1.oldpl = e.oldpl := by rw [frameStep_keeps]
@[simp] theorem frameStep_lastBitPos : (e.frameStep sym).1.lastBitPos = e.lastBitPos := by rw [frameStep_keeps]
@[simp] theorem frameStep_coil : (e.frameStep sym).1.coil = e.coil := by rw [frameStep_keeps]
@[simp] theorem frameStep_samplerate : (e.frameStep sym).1.samplerate = e.samplerate := by rw [frameStep_keeps]
@[simp] theorem frameStep_batchOk : (e.frameStep sym).1.batchOk = e.batchOk := by rw [frameStep_keeps]
@[simp] theorem frameStep_cfgFault : (e.frameStep sym).1.cfgFault = e.cfgFault := by rw [frameStep_keeps]

end FrameStepLeaves

theorem frameStep_trackInv {e : EmRegs} (h : e.TrackInv) (sym : BitSymbol) : (e.frameStep sym).1.TrackInv where
  fresh := by simpa using h.fresh
  oldpl_le := by simpa using h.oldpl_le
  anchor_le := by simpa using h.anchor_le

theorem firstSample_trackInv {e : EmRegs} (h : e.TrackInv) (unseen : e.havePrev = false) (position : Pos)
    (level : Bool) : (e.firstSample position level).TrackInv := by
  obtain ⟨-, hold, hanchor⟩ := h.fresh unseen
  have zero_le : 0#64 ≤ position := by bv_omega
  exact ⟨by simp [EmRegs.firstSample], hold ▸ zero_le, hanchor ▸ zero_le⟩

/-- An edge in order keeps the tracking invariants: a pulse is no longer than the position it ends at, and the anchor
stays where it was or moves to the edge. -/
theorem track_trackInv {e : EmRegs} (h : e.TrackInv) {position : Pos} {level : Bool} (due : e.EdgeDue position level)
    (arm : Option Arm) : (e.track arm position level).TrackInv := by
  obtain ⟨-, seen, -, later⟩ := due
  have hanchor := h.anchor_le
  constructor
  case fresh => simp [seen]
  case oldpl_le => rw [track_oldpl, track_prevPos]; bv_omega
  case anchor_le =>
    rw [track_prevPos]
    dsimp only [EmRegs.track]
    split <;> bv_omega

/-- Every EM op keeps the tracking invariants. -/
theorem EmOpWrites.trackInv {e regs : EmRegs} {i : Instr} {anns : List EmAnnotation}
    (hw : EmOpWrites e i regs anns) (h : e.TrackInv) : regs.TrackInv := by
  cases hw with
  | firstSample _ unseen => exact firstSample_trackInv h unseen _ _
  | silentEdge due => exact track_trackInv h due _
  | symbolEdge due => exact frameStep_trackInv (track_trackInv h due _) _
  | datarateKept | datarateReserved | coilfreqKept | noEdge | reserved6 | reserved7 => exact h
  | polarity | datarate | datarate64 | datarate32 | datarate16 | coilfreq | samplerate | batch =>
    exact { h with }

/-! ### The configuration registers -/

/-- No EM op writes 0 to `em.coil` (R127). -/
theorem EmOpWrites.coilInv {e regs : EmRegs} {i : Instr} {anns : List EmAnnotation}
    (hw : EmOpWrites e i regs anns) (h : e.CoilInv) : regs.CoilInv := by
  cases hw with
  | coilfreq nonzero => exact nonzero
  | symbolEdge => simpa [EmRegs.CoilInv] using h
  | _ => exact h

/-- Of the EM ops that raise nothing only `EM_BATCH` opens a batch, which then finds the sample rate set, and only
`EM_SET_SAMPLERATE` writes the rate. -/
theorem EmOpWrites.batchInv {e regs : EmRegs} {i : Instr} {anns : List EmAnnotation}
    (hw : EmOpWrites e i regs anns) (hi : i ≠ .emSetSamplerate 0#32)
    (h : e.batchOk = true → e.samplerate ≠ 0#32) : regs.batchOk = true → regs.samplerate ≠ 0#32 := by
  cases hw with
  | samplerate rate => exact fun _ => by simpa using hi
  | batch rate_set => exact fun _ => rate_set
  | symbolEdge => simpa using h
  | _ => exact h

/-- No EM op that raises nothing writes `em.cfg_fault` (R29). -/
theorem EmOpWrites.cfgFault_eq {e regs : EmRegs} {i : Instr} {anns : List EmAnnotation}
    (hw : EmOpWrites e i regs anns) : regs.cfgFault = e.cfgFault := by
  cases hw with
  | symbolEdge => simp
  | _ => rfl

/-! ### JT commands -/

/-- A JT command writes nothing of the EM unit (R20, R22). -/
theorem jtCommand_leaves_em (s : State) (sel : JtSelector) (c : JtCommand) :
    (s.jtCommand sel c).em = s.em ∧ (s.jtCommand sel c).emStream = s.emStream ∧
      (s.jtCommand sel c).emPort = .idle ∧ (s.jtCommand sel c).pending = s.pending := by
  rcases jtCommand_cases s sel c with ⟨-, e⟩ | ⟨-, -, e⟩ | ⟨-, -, -, e⟩ <;> simp [e]

/-- A JT command reads nothing but the JT unit's registers (R20, R69). -/
theorem jtCommand_reads_jt {s s' : State} (hjt : s'.jt = s.jt) (hstream : s'.jtStream = s.jtStream)
    (sel : JtSelector) (c : JtCommand) :
    (s'.jtCommand sel c).jt = (s.jtCommand sel c).jt ∧ (s'.jtCommand sel c).jtPort = (s.jtCommand sel c).jtPort ∧
      (s'.jtCommand sel c).jtStream = (s.jtCommand sel c).jtStream := by
  unfold State.jtCommand
  rw [hjt]
  split_ifs <;> simp [hjt, hstream]

/-- No instruction pattern selects the malformed state (R88). -/
theorem irTable_ne_code7 (pattern : BitVec 4) : irTable pattern ≠ .code7 := by
  unfold irTable
  split <;> decide

theorem jtNext_ne_code7 (st : JtSt) (c : JtCommand) : jtNext st c ≠ .code7 := by
  cases st with
  | idle => exact irTable_ne_code7 _
  | _ => exact nofun

/-- A JT command keeps the invariant of the JT unit (R49). -/
theorem jtCommand_keeps_inv {s : State} (h : s.jt.Inv) (sel : JtSelector) (c : JtCommand) :
    (s.jtCommand sel c).jt.Inv := by
  obtain ⟨declared, running⟩ := h
  rcases jtCommand_cases s sel c with ⟨-, e⟩ | ⟨-, malformed, -⟩ | ⟨-, -, -, e⟩
  · rw [e]; exact ⟨declared, running⟩
  · exact absurd malformed declared
  · rw [e]; exact ⟨jtNext_ne_code7 _ _, running⟩

/-! ### The invariants of the whole state -/

/-- The reset values meet the invariants, whatever else the state holds. -/
theorem inv_of_reset {s : State} (hem : s.em = EmRegs.reset) (hjt : s.jt = JtRegs.reset) : s.Inv where
  frame := by rw [hem]; constructor <;> decide
  track := by rw [hem]; constructor <;> decide
  coil := by rw [hem, EmRegs.CoilInv]; decide
  jt := by rw [hjt]; exact ⟨by decide, rfl⟩

theorem takeFault_config_inv {s : State} (h : s.Inv) : (s.takeFault .configurationError).Inv where
  frame := { h.frame with }
  track := { h.track with }
  coil := h.coil
  jt := h.jt

/-- Every op that completes keeps the invariants. -/
theorem exec_keeps_inv {s t : State} {i : Instr} (h : s.Inv) (he : exec i s = .next t) : t.Inv := by
  rcases exec_cases he with ⟨-, rfl⟩ | ⟨-, -, rfl⟩ | ⟨regs, anns, hw, rfl⟩ | ⟨sel, c, -, rfl⟩
  · exact inv_of_reset rfl rfl
  · exact takeFault_config_inv h
  · exact ⟨hw.frameInv h.frame, hw.trackInv h.track, hw.coilInv h.coil, h.jt⟩
  · obtain ⟨hem, -⟩ := jtCommand_leaves_em s sel c
    exact ⟨hem ▸ h.frame, hem ▸ h.track, hem ▸ h.coil, jtCommand_keeps_inv h.jt sel c⟩

/-- Settles O53: a step is a quiet cycle or the next op, and every op keeps the invariants. -/
theorem everyStepKeepsTheInvariants : Obligations.EveryStepKeepsTheInvariants := by
  intro s t h hstep
  rcases step_cases s with ⟨-, e⟩ | ⟨w, rest, i, -, -, e⟩ | ⟨w, rest, r, -, -, e⟩ <;> rw [e] at hstep
  · cases hstep; exact { h with }
  · have presented : State.Inv { s with pending := rest } := { h with }
    exact exec_keeps_inv presented hstep
  · cases hstep

/-- Settles O52: the reset values meet the invariants, no batch is open and neither flag is set. -/
theorem resetMeetsTheInvariants : Obligations.ResetMeetsTheInvariants :=
  ⟨inv_of_reset rfl rfl, by unfold State.BatchInv; decide, rfl, rfl⟩

/-- Settles O8: `pinReset` writes the table's values and leaves the streams and the ops still to come. -/
theorem resetWritesTheResetTable : Obligations.ResetWritesTheResetTable :=
  fun s => ⟨s.pinReset, rfl, rfl, rfl, rfl, rfl, rfl, rfl, rfl, rfl, rfl⟩

/-- Settles O54: reset and a raising `EM_BATCH` close the batch, a JT command writes no EM register, and the other EM
ops keep the clause by `EmOpWrites.batchInv`. -/
theorem openBatchHasASampleRate : Obligations.OpenBatchHasASampleRate := by
  intro s t i h hi he
  rcases exec_cases he with ⟨-, rfl⟩ | ⟨-, -, rfl⟩ | ⟨regs, anns, hw, rfl⟩ | ⟨sel, c, -, rfl⟩
  · simp [State.BatchInv, EmRegs.reset]
  · simp [State.BatchInv]
  · exact hw.batchInv hi h
  · rw [State.BatchInv, (jtCommand_leaves_em s sel c).1]
    exact h

/-! ### The separation of the units (R20, R22, R69) -/

/-- Settles O56: an EM op raises or finishes, which leaves the JT unit; a JT op is a JT command. -/
theorem unitsWriteOnlyTheirOwnState : Obligations.UnitsWriteOnlyTheirOwnState := by
  intro s t i he
  constructor
  · intro hi
    rcases exec_em_cases hi he with ⟨-, -, rfl⟩ | ⟨regs, anns, -, rfl⟩ <;> simp
  · intro hi
    obtain ⟨sel, c, hc⟩ := exec_jt_command hi
    rw [hc] at he; cases he
    exact jtCommand_leaves_em s sel c

/-- Settles O57: `EmOpWrites` speaks of the EM registers alone, so it says the same of both states; a JT command
reads nothing but the JT registers. -/
theorem unitsReadOnlyTheirOwnState : Obligations.UnitsReadOnlyTheirOwnState := by
  intro s s' t i he
  constructor
  · intro hi hem hstream
    rcases exec_em_cases hi he with ⟨⟨a, b, rfl⟩, hz, rfl⟩ | ⟨regs, anns, hw, rfl⟩
    · exact ⟨_, exec_emBatch_raises (hem ▸ hz), by simp [hem], rfl, by simp [hstream]⟩
    · exact ⟨_, exec_of_writes (hem ▸ hw), rfl, rfl, by simp [hstream]⟩
  · intro hi hjt hstream
    obtain ⟨sel, c, hc⟩ := exec_jt_command hi
    rw [hc] at he; cases he
    exact ⟨_, hc s', jtCommand_reads_jt hjt hstream sel c⟩

/-! ### The flag `em.cfg_fault` (R29) -/

/-- The EM registers with another value of the flag. -/
def EmRegs.withCfgFault (e : EmRegs) (b : Bool) : EmRegs := { e with cfgFault := b }

/-- The state with another value of the flag. -/
def State.withCfgFault (s : State) (b : Bool) : State := { s with em := s.em.withCfgFault b }

theorem withCfgFault_withCfgFault (s : State) (a b : Bool) :
    (s.withCfgFault a).withCfgFault b = s.withCfgFault b := rfl

section FlagGatesNothing
variable (e : EmRegs) (b : Bool) (sym : BitSymbol)

theorem withCfgFault_fs : (e.withCfgFault b).fs = e.fs := rfl

theorem headerStep_withCfgFault :
    (e.withCfgFault b).headerStep sym = ((e.headerStep sym).1.withCfgFault b, (e.headerStep sym).2) := by
  unfold EmRegs.headerStep EmRegs.withCfgFault
  dsimp only
  split_ifs <;> rfl

theorem payloadStep_withCfgFault :
    (e.withCfgFault b).payloadStep sym = ((e.payloadStep sym).1.withCfgFault b, (e.payloadStep sym).2) := by
  unfold EmRegs.payloadStep EmRegs.withCfgFault
  dsimp only
  split <;> rfl

theorem trailerStep_withCfgFault :
    (e.withCfgFault b).trailerStep sym = ((e.trailerStep sym).1.withCfgFault b, (e.trailerStep sym).2) := by
  unfold EmRegs.trailerStep EmRegs.withCfgFault
  dsimp only
  split <;> rfl

theorem frameStep_withCfgFault :
    (e.withCfgFault b).frameStep sym = ((e.frameStep sym).1.withCfgFault b, (e.frameStep sym).2) := by
  unfold EmRegs.frameStep EmRegs.frameArm
  rw [withCfgFault_fs]
  cases e.fs with
  | header => simp only [headerStep_withCfgFault]
  | payload => simp only [payloadStep_withCfgFault]
  | trailer => simp only [trailerStep_withCfgFault]

end FlagGatesNothing

/-- The flag gates no EM op: with another value of it the op writes and emits the same, and leaves it. -/
theorem EmOpWrites.withCfgFault {e regs : EmRegs} {i : Instr} {anns : List EmAnnotation}
    (hw : EmOpWrites e i regs anns) (b : Bool) :
    EmOpWrites (e.withCfgFault b) i (regs.withCfgFault b) anns := by
  cases hw with
  | polarity => exact .polarity _
  | datarate code_legal => exact .datarate code_legal
  | datarateKept code_reserved => exact .datarateKept code_reserved
  | datarate64 => exact .datarate64
  | datarate32 => exact .datarate32
  | datarate16 => exact .datarate16
  | datarateReserved => exact .datarateReserved
  | coilfreq nonzero => exact .coilfreq nonzero
  | coilfreqKept => exact .coilfreqKept
  | samplerate => exact .samplerate _
  | batch rate_set => exact .batch rate_set
  | noEdge ignored => exact .noEdge ignored
  | firstSample batch unseen => exact .firstSample batch unseen
  | silentEdge due arm_eq => exact .silentEdge due arm_eq
  | @symbolEdge position level arm due arm_eq in_range =>
    have hw : EmOpWrites (e.withCfgFault b) (.emSample position level)
        (((e.track (some arm) position level).withCfgFault b).frameStep (e.symbolOf arm position)).1
        (((e.track (some arm) position level).withCfgFault b).frameStep (e.symbolOf arm position)).2 :=
      .symbolEdge due arm_eq in_range
    rwa [frameStep_withCfgFault] at hw
  | reserved6 => exact .reserved6
  | reserved7 => exact .reserved7

/-- The flag gates no JT command. -/
theorem jtCommand_withCfgFault (s : State) (b : Bool) (sel : JtSelector) (c : JtCommand) :
    (s.withCfgFault b).jtCommand sel c = (s.jtCommand sel c).withCfgFault b := by
  unfold State.jtCommand State.withCfgFault
  dsimp only
  split_ifs <;> rfl

/-- The flag gates no op: every op completes just so with another value of it, but for the flag. -/
theorem exec_withCfgFault {s t : State} {i : Instr} (he : exec i s = .next t) (b : Bool) :
    ∃ t', exec i (s.withCfgFault b) = .next t' ∧ t'.withCfgFault false = t.withCfgFault false := by
  rcases exec_cases he with ⟨rfl, rfl⟩ | ⟨⟨x, y, rfl⟩, hz, rfl⟩ | ⟨regs, anns, hw, rfl⟩ | ⟨sel, c, hc, rfl⟩
  · exact ⟨_, rfl, rfl⟩
  · exact ⟨_, exec_emBatch_raises hz, rfl⟩
  · exact ⟨_, exec_of_writes (hw.withCfgFault b), rfl⟩
  · exact ⟨_, hc _, by rw [jtCommand_withCfgFault, withCfgFault_withCfgFault]⟩

/-- All an op can do to the flag: clear it by the reset, set it by a batch that raises, or leave it. -/
theorem exec_cfgFault_cases {s t : State} {i : Instr} (he : exec i s = .next t) :
    (i = .reset ∧ t.em.cfgFault = false) ∨
    (((∃ a b, i = .emBatch a b) ∧ s.em.samplerate = 0#32) ∧ t.em.cfgFault = true) ∨
    t.em.cfgFault = s.em.cfgFault := by
  rcases exec_cases he with ⟨rfl, rfl⟩ | ⟨hi, hz, rfl⟩ | ⟨regs, anns, hw, rfl⟩ | ⟨sel, c, -, rfl⟩
  · exact .inl ⟨rfl, rfl⟩
  · exact .inr (.inl ⟨⟨hi, hz⟩, rfl⟩)
  · exact .inr (.inr hw.cfgFault_eq)
  · exact .inr (.inr (by rw [(jtCommand_leaves_em s sel c).1]))

/-- Settles O51: what an op does to the flag by `exec_cfgFault_cases`, that it gates nothing by
`exec_withCfgFault`. -/
theorem configFaultFlagIsStickyAndGatesNothing : Obligations.ConfigFaultFlagIsStickyAndGatesNothing := by
  intro s t i he
  have flag := exec_cfgFault_cases he
  refine ⟨?reset_clears, ?batch_sets, ?only_reset_clears, ?only_batch_sets, exec_withCfgFault he⟩
  case reset_clears => rintro rfl; cases he; rfl
  case batch_sets =>
    rintro ⟨a, b, rfl⟩ hz
    rw [exec_emBatch_raises hz] at he; cases he; rfl
  case only_reset_clears =>
    intro hs ht
    simpa [hs, ht] using flag
  case only_batch_sets =>
    intro hs ht
    simpa [hs, ht] using flag

end Sys2Proof.Machine

/-! SUPPORT. The host's stream of ops and the annotation streams of 20_memory.md: how a step takes the next op (O1),
when a sample completes (O24), that the order of two units' ops is irrelevant (O58) and what an op adds to the streams
(O59). -/

namespace Sys2Proof.Machine

/-! ### A step and the next op (R63, R65, R100) -/

theorem idleCycle_noEffect (s : State) : NoEffect s s.idleCycle := ⟨rfl, rfl, rfl, rfl, rfl, rfl, rfl⟩

/-- Settles O1: of the three answers of a step only one fits each clause's premises. -/
theorem stepPerformsTheNextOp : Obligations.StepPerformsTheNextOp := by
  constructor
  case left =>
    intro s w rest i hp hd
    rcases step_cases s with ⟨empty, -⟩ | ⟨w', rest', i', hp', hd', e⟩ | ⟨w', rest', r, hp', hd', -⟩
    · cases hp.symm.trans empty
    · cases hp.symm.trans hp'
      cases hd.symm.trans hd'
      exact e
    · cases hp.symm.trans hp'
      cases hd.symm.trans hd'
  case right =>
    intro s hp
    rcases step_cases s with ⟨-, e⟩ | ⟨w, rest, i, hp', -⟩ | ⟨w, rest, r, hp', -⟩
    · exact ⟨_, e, idleCycle_noEffect s⟩
    · cases hp.symm.trans hp'
    · cases hp.symm.trans hp'

/-! ### When a sample completes (R70, R142, R155) -/

theorem half_le (x : Pos) : half x ≤ x := by
  rw [half, BitVec.le_def, BitVec.toNat_ushiftRight]
  exact Nat.shiftRight_le _ _

/-- A symbol starts at most one previous pulse before the previous edge. -/
theorem Arm.reach_le (arm : Arm) (opl : Pos) : arm.reach opl ≤ opl := by
  cases arm with
  | longAfterLong | shortAfterLong => exact half_le opl
  | longAfterShort | shortAfterShort => exact BitVec.le_refl opl

/-- Under the tracking invariant no symbol starts before position 0 (R155). -/
theorem EmRegs.TrackInv.reach_le_prevPos {e : EmRegs} (h : e.TrackInv) (arm : Arm) :
    ¬ e.prevPos < arm.reach e.oldpl :=
  BitVec.not_lt.mpr (BitVec.le_trans (arm.reach_le e.oldpl) h.oldpl_le)

/-- An edge stops exactly if its symbol would start before position 0 (log entry 10). -/
theorem edge_eq_fault_iff (s : State) (position : Pos) (level : Bool) :
    s.edge position level = .fault .symbolBeforeOrigin ↔
      ∃ arm, s.em.edgeArm position = some arm ∧ s.em.prevPos < arm.reach s.em.oldpl := by
  rcases edge_cases s position level with ⟨ha, e⟩ | ⟨arm, ha, before, e⟩ | ⟨arm, r, ha, in_range, -, e⟩
  · simp [e, ha]
  · simp [e, ha, before]
  · simp [e, ha, in_range]

/-- Under the tracking invariant every edge completes. -/
theorem edge_completes {s : State} (h : s.em.TrackInv) (position : Pos) (level : Bool) :
    Completes (s.edge position level) := by
  rcases edge_cases s position level with ⟨-, e⟩ | ⟨arm, -, before, -⟩ | ⟨arm, r, -, -, -, e⟩
  · exact ⟨_, e⟩
  · exact absurd before (h.reach_le_prevPos arm)
  · exact ⟨_, e⟩

/-- Under the tracking invariant a sample completes, unless it is an edge out of order (R70). -/
theorem execEmSample_completes {s : State} {position : Pos} {level : Bool} (h : s.em.TrackInv)
    (in_order : s.em.havePrev = true → level ≠ s.em.prevLevel → s.em.prevPos < position) :
    Completes (execEmSample position level s) := by
  rcases execEmSample_cases position level s with ⟨-, e⟩ | ⟨-, -, e⟩ | ⟨-, hh, hl, not_later, -⟩ | ⟨-, e⟩
  · exact ⟨_, e⟩
  · exact ⟨_, e⟩
  · exact absurd (in_order hh hl) (BitVec.not_lt.mpr not_later)
  · exact e ▸ edge_completes h position level

/-- Settles O24: a sample stops only at an edge out of order or at a symbol before position 0, and the tracking
invariant rules the second out. -/
theorem orderedSamplesComplete : Obligations.OrderedSamplesComplete := by
  refine ⟨fun _ _ _ h in_order => execEmSample_completes h in_order, ?_⟩
  intro s position level at_edge
  have as_edge : exec (.emSample position level) s = s.edge position level :=
    execEmSample_of_edgeDue (atEdge_iff.mp at_edge)
  rw [as_edge]
  exact edge_eq_fault_iff s position level

/-! ### The order of two units' ops (R69) -/

/-- Settles O58: each op finds its own unit as the other op left it, untouched (O56), so it does in either order the
same to it (O57). -/
theorem unitsCommute : Obligations.UnitsCommute := by
  intro s t u i j hi hj hst htu
  obtain ⟨t_jt, t_jtStream, -, t_pending⟩ := (unitsWriteOnlyTheirOwnState s t i hst).1 hi
  obtain ⟨u_em, u_emStream, -, u_pending⟩ := (unitsWriteOnlyTheirOwnState t u j htu).2 hj
  obtain ⟨t', hst', t'_jt, -, t'_jtStream⟩ :=
    (unitsReadOnlyTheirOwnState t s u j htu).2 hj t_jt.symm t_jtStream.symm
  obtain ⟨t'_em, t'_emStream, -, t'_pending⟩ := (unitsWriteOnlyTheirOwnState s t' j hst').2 hj
  obtain ⟨u', htu', u'_em, -, u'_emStream⟩ := (unitsReadOnlyTheirOwnState s t' t i hst).1 hi t'_em t'_emStream
  obtain ⟨u'_jt, u'_jtStream, -, u'_pending⟩ := (unitsWriteOnlyTheirOwnState t' u' i htu').1 hi
  exact ⟨t', u', hst', htu', u'_em.trans u_em.symm, u'_jt.trans t'_jt, u'_emStream.trans u_emStream.symm,
    u'_jtStream.trans t'_jtStream, by rw [u'_pending, t'_pending, u_pending, t_pending]⟩

/-! ### What an op adds to the streams (R64, R96, R97, R101) -/

/-- The EM stream grows by `a`, and `a` is what the EM port shows. -/
structure EmEmits (s t : State) (a : List EmAnnotation) : Prop where
  stream : t.emStream = s.emStream ++ a
  few : a.length ≤ 4
  slots : t.emPort.slots = a.map EmAnnotation.slot
  count : t.emPort.count.toNat = a.length

/-- The JT stream grows by `b`, and `b` is what the JT port shows. -/
structure JtEmits (s t : State) (b : List JtAnnotation) : Prop where
  stream : t.jtStream = s.jtStream ++ b
  few : b.length ≤ 2
  slots : t.jtPort.slots.map (fun x => (x.start, x.stop, x.kind)) =
    b.map (fun x => (x.start, x.stop, x.payload.kind))
  count : t.jtPort.count.toNat = b.length

theorem EmEmits.nothing {s t : State} (stream : t.emStream = s.emStream) (slots : t.emPort.slots = [])
    (count : t.emPort.count = 0#3) : EmEmits s t [] :=
  ⟨by simp [stream], by simp, by simp [slots], by simp [count]⟩

theorem JtEmits.nothing {s t : State} (stream : t.jtStream = s.jtStream) (slots : t.jtPort.slots = [])
    (count : t.jtPort.count = 0#2) : JtEmits s t [] :=
  ⟨by simp [stream], by simp, by simp [slots], by simp [count]⟩

/-- Four annotations or fewer fit the three bits of the port's count. -/
theorem emFinish_emits (s : State) (regs : EmRegs) {anns : List EmAnnotation} (few : anns.length ≤ 4) :
    EmEmits s (s.emFinish regs anns) anns where
  stream := rfl
  few := few
  slots := rfl
  count := Nat.mod_eq_of_lt (by omega)

/-- Two annotations or fewer fit the two bits of the port's count. -/
theorem jtFinish_emits (s : State) (regs : JtRegs) (c : JtCommand) {ps : List JtPayload} (few : ps.length ≤ 2) :
    JtEmits s (s.jtFinish regs c ps) (ps.map fun p => p.annotate c) where
  stream := rfl
  few := by simpa using few
  slots := by simp [JtPayload.annotate]
  count := by
    simp only [jtFinish_jtPort, jtPortOf_count, List.length_map, BitVec.toNat_ofNat]
    exact Nat.mod_eq_of_lt (by omega)

theorem jtCommand_emits (s : State) (sel : JtSelector) (c : JtCommand) : ∃ b, JtEmits s (s.jtCommand sel c) b := by
  rcases jtCommand_cases s sel c with ⟨-, e⟩ | ⟨-, -, e⟩ | ⟨-, -, -, e⟩ <;> rw [e]
  · exact ⟨[], .nothing rfl rfl rfl⟩
  · exact ⟨[], .nothing rfl rfl rfl⟩
  · exact ⟨_, jtFinish_emits s _ c (jtPayloads_count _ c)⟩

/-- Every op that completes adds to each stream what that unit's port shows. -/
theorem exec_emits {s t : State} {i : Instr} (h : exec i s = .next t) : ∃ a b, EmEmits s t a ∧ JtEmits s t b := by
  rcases exec_next_cases h with ⟨-, rfl⟩ | ⟨-, rfl | ⟨-, -, -, -, rfl⟩ | ⟨regs, anns, few, rfl⟩⟩ |
    ⟨-, sel, c, rfl⟩
  · exact ⟨[], [], .nothing rfl rfl rfl, .nothing rfl rfl rfl⟩
  · exact ⟨[], [], .nothing rfl rfl rfl, .nothing rfl rfl rfl⟩
  · exact ⟨[], [], .nothing rfl rfl rfl, .nothing rfl rfl rfl⟩
  · exact ⟨anns, [], emFinish_emits s regs few, .nothing rfl rfl rfl⟩
  · obtain ⟨-, stream, port, -⟩ := jtCommand_leaves_em s sel c
    obtain ⟨b, emits⟩ := jtCommand_emits s sel c
    exact ⟨[], b, .nothing stream (port ▸ rfl) (port ▸ rfl), emits⟩

/-- Settles O59: `exec_emits`, with what each unit emits taken apart. -/
theorem streamsGrowByWhatThePortsShow : Obligations.StreamsGrowByWhatThePortsShow := by
  intro s t i h
  obtain ⟨a, b, em, jt⟩ := exec_emits h
  exact ⟨a, b, em.stream, jt.stream, em.few, jt.few, em.slots, em.count, jt.slots, jt.count⟩

end Sys2Proof.Machine

/-! SUPPORT. The op records of 30_encoding.md: what each form of a record decodes to, that decode inverts encode (O3),
that it yields well-formed ops only (O4), the codes of both units with their operands (O5, O6) and four records written
out (O2). -/

namespace Sys2Proof

/-! ### Which form a record is decoded by (R99, log entry 1) -/

section
variable {w : OpWord}

theorem decode_of_rst (hr : w.rst = 1#1) : decode w = .ok .reset := if_pos hr

theorem decode_of_em (hr : w.rst = 0#1) (hf : w.form = 0#4) : decode w = .ok (decodeEm w) := by
  simp [decode, hr, hf]

theorem decode_of_jt (hr : w.rst = 0#1) (hf : w.form = 2#4) : decode w = decodeJt w := by
  simp [decode, hr, hf]

theorem decode_of_dr (hr : w.rst = 0#1) (hf : w.form = 3#4) : decode w = decodeDr w := by
  simp [decode, hr, hf]

theorem decode_of_irHigh (hr : w.rst = 0#1) (hf : w.form = 1#4) : decode w = decodeIr (1#1 ++ w.code) w := by
  simp [decode, hr, hf]

theorem decode_of_irLow (hr : w.rst = 0#1) (hf : w.form = 4#4) : decode w = decodeIr (0#1 ++ w.code) w := by
  simp [decode, hr, hf]

/-- All a record can decode to: a reset, or what the decoder of its form answers. -/
theorem decode_cases {i : Instr} (h : decode w = .ok i) :
    i = .reset ∨ i = decodeEm w ∨ decodeJt w = .ok i ∨ decodeDr w = .ok i ∨ ∃ p, decodeIr p w = .ok i := by
  unfold decode at h
  split at h
  · cases h; exact .inl rfl
  split at h
  · cases h; exact .inr (.inl rfl)
  · exact .inr (.inr (.inr (.inr ⟨_, h⟩)))
  · exact .inr (.inr (.inl h))
  · exact .inr (.inr (.inr (.inl h)))
  · exact .inr (.inr (.inr (.inr ⟨_, h⟩)))
  · cases h

end

/-! ### The instruction table (R88) -/

theorem knownPattern_eq_false_iff (p : BitVec 4) :
    knownPattern p = false ↔
      p.toNat ≠ 15 ∧ p.toNat ≠ 14 ∧ p.toNat ≠ 10 ∧ p.toNat ≠ 11 ∧ p.toNat ≠ 8 := by
  revert p; decide

theorem decodeIr_of_unknown {p : BitVec 4} (hp : knownPattern p = false) (w : OpWord) :
    decodeIr p w = (decodeIrVector w).map (.irUnknown p) := by
  simp [decodeIr, (knownPattern_eq_false_iff p).mp hp]

/-! ### The record of an encoded op -/

section
variable (c : JtCommand) (t : IrVector) (form : BitVec 4) (code : BitVec 3) (line : BitVec 1)

theorem decode_encodeEm (a b : BitVec 64) :
    decode (encodeEm code a b) = .ok (decodeEm (encodeEm code a b)) :=
  decode_of_em (pack_rst ..) (pack_form ..)

theorem decode_encodeCommand_jt :
    decode (encodeCommand 2 code line c) = decodeJt (encodeCommand 2 code line c) :=
  decode_of_jt (pack_rst ..) (pack_form ..)

theorem decode_encodeCommand_dr :
    decode (encodeCommand 3 code line c) = decodeDr (encodeCommand 3 code line c) :=
  decode_of_dr (pack_rst ..) (pack_form ..)

@[simp] theorem encodeCommand_code : (encodeCommand form code line c).code = code := pack_code ..
@[simp] theorem encodeCommand_line : (encodeCommand form code line c).line = line := pack_line ..

/-- The JT operands come back, unless the vector is longer than `BITS_W`. -/
@[simp] theorem decodeCommand_encodeCommand :
    decodeCommand (encodeCommand form code line c) =
      if c.wellFormed then .ok c else .error .vectorTooLong := by
  simp [decodeCommand, encodeCommand]

@[simp] theorem decodeLine_encodeCommand (line : DrLine) :
    decodeLine (encodeCommand form code (encodeLine line) c) = line := by
  cases line <;> simp [decodeLine, encodeLine]

/-- The pattern's top bit is in the form, so the form's decoder puts the whole pattern together again. -/
theorem decode_encodeIr (p : BitVec 4) : decode (encodeIr p t) = decodeIr p (encodeIr p t) := by
  have high : p.getLsbD 3 = true → 1#1 ++ p.setWidth 3 = p := by revert p; decide
  have low : p.getLsbD 3 = false → 0#1 ++ p.setWidth 3 = p := by revert p; decide
  have rst : (encodeIr p t).rst = 0#1 := pack_rst ..
  have form : (encodeIr p t).form = if p.getLsbD 3 then 1 else 4 := pack_form ..
  have code : (encodeIr p t).code = p.setWidth 3 := pack_code ..
  cases top : p.getLsbD 3 with
  | true => rw [decode_of_irHigh rst (by rw [form, top]; rfl), code, high top]
  | false => rw [decode_of_irLow rst (by rw [form, top]; rfl), code, low top]

/-- The operands of a pattern row come back: the six bits of `extra` and the sixty of `upper` fit their fields. -/
theorem decodeIrVector_encodeIr {t : IrVector} (ht : t.wellFormed = true) (p : BitVec 4) :
    decodeIrVector (encodeIr p t) = .ok t := by
  have total : 4 + t.extra.toNat ≤ 64 := by simpa [IrVector.wellFormed] using ht
  have fits : t.extra.toNat % 128 ≤ 60 := by omega
  simp [decodeIrVector, encodeIr, fits]

end

/-- A one-bit operand comes back from bit 0 of the 64 (R82). -/
theorem flagOperand_bit (b : Bool) : (if b then 1#64 else 0#64)[0] = b := by cases b <;> rfl

/-! ### Decode inverts encode -/

/-- Settles O3: each format's record names its decoder, and the decoder finds the op's code and operands. -/
theorem decodeInvertsEncode : Obligations.DecodeInvertsEncode := by
  intro i h
  cases i with
  | reset => exact decode_of_rst (pack_rst ..)
  | emCfgPolarity | emCfgDatarate | emCfgCoilfreq | emSetSamplerate | emBatch | emSample | emReserved6
  | emReserved7 =>
    rw [encode, decode_encodeEm]
    simp [decodeEm, encodeEm, flagOperand_bit]
  | jtCmdIrTdi c | jtCmdDrTdi c | jtCmdDrTdo c | jtCmdReservedSelector c =>
    have fits : c.wellFormed = true := h
    rw [encode, decode_encodeCommand_jt]
    simp [decodeJt, fits, Except.map]
  | datarate64 | datarate32 | datarate16 | datarateReserved =>
    refine (decode_of_jt (pack_rst ..) (pack_form ..)).trans ?_
    simp [decodeJt]
  | irBypass t | irIdcode t | irDpacc t | irApacc t | irAbort t =>
    rw [encode, decode_encodeIr, decodeIr, decodeIrVector_encodeIr h]
    rfl
  | irUnknown p t =>
    obtain ⟨unknown, fits⟩ : knownPattern p = false ∧ t.wellFormed = true := by simpa [Instr.wellFormed] using h
    rw [encode, decode_encodeIr, decodeIr_of_unknown unknown, decodeIrVector_encodeIr fits]
    rfl
  | drBypass c | drIdcode line c | drDpacc line c | drApacc line c | drAbort line c | drUnknown line c =>
    have fits : c.wellFormed = true := h
    rw [encode, decode_encodeCommand_dr]
    simp [decodeDr, fits, Except.map]

/-! ### What decodes is well-formed -/

theorem map_eq_ok {α β : Type} {f : α → β} {x : Except DecodeError α} {b : β} (h : x.map f = .ok b) :
    ∃ a, x = .ok a ∧ b = f a := by
  cases x with
  | ok a => cases h; exact ⟨a, rfl, rfl⟩
  | error r => cases h

section
variable {w : OpWord} {i : Instr}

/-- An op with decoded JT operands is well-formed. -/
theorem wellFormed_of_decodeCommand {f : JtCommand → Instr} (hf : ∀ c, (f c).wellFormed = c.wellFormed)
    (h : (decodeCommand w).map f = .ok i) : i.wellFormed = true := by
  obtain ⟨c, hc, rfl⟩ := map_eq_ok h
  rw [hf]; exact (decodeCommand_ok hc).2

/-- An op with decoded pattern-row operands is well-formed. -/
theorem wellFormed_of_decodeIrVector {f : IrVector → Instr} (hf : ∀ t, (f t).wellFormed = t.wellFormed)
    (h : (decodeIrVector w).map f = .ok i) : i.wellFormed = true := by
  obtain ⟨t, ht, rfl⟩ := map_eq_ok h
  rw [hf]; exact (decodeIrVector_ok ht).2

theorem decodeEm_wellFormed (w : OpWord) : (decodeEm w).wellFormed = true := by
  unfold decodeEm
  split <;> rfl

theorem decodeJt_wellFormed (h : decodeJt w = .ok i) : i.wellFormed = true := by
  unfold decodeJt at h
  split at h
  iterate 4 exact wellFormed_of_decodeCommand (fun _ => rfl) h
  all_goals cases h; rfl

theorem decodeDr_wellFormed (h : decodeDr w = .ok i) : i.wellFormed = true := by
  unfold decodeDr at h
  split at h
  · split at h
    · cases h
    · exact wellFormed_of_decodeCommand (fun _ => rfl) h
  iterate 5 exact wellFormed_of_decodeCommand (fun _ => rfl) h
  cases h

theorem decodeIr_wellFormed {p : BitVec 4} (h : decodeIr p w = .ok i) : i.wellFormed = true := by
  cases hp : knownPattern p with
  | false =>
    rw [decodeIr_of_unknown hp] at h
    exact wellFormed_of_decodeIrVector (fun _ => by simp [Instr.wellFormed, hp]) h
  | true =>
    unfold decodeIr at h
    split at h
    iterate 5 exact wellFormed_of_decodeIrVector (fun _ => rfl) h
    have unknown : knownPattern p = false := (knownPattern_eq_false_iff p).mpr ⟨‹_›, ‹_›, ‹_›, ‹_›, ‹_›⟩
    cases hp.symm.trans unknown

end

/-- Settles O4: each form's decoder yields well-formed ops only. -/
theorem decodedOpsAreWellFormed : Obligations.DecodedOpsAreWellFormed := by
  intro w i h
  rcases decode_cases h with rfl | rfl | h | h | ⟨p, h⟩
  · rfl
  · exact decodeEm_wellFormed w
  · exact decodeJt_wellFormed h
  · exact decodeDr_wellFormed h
  · exact decodeIr_wellFormed h

/-! ### Records written as numbers -/

theorem toNat_append_eq_add {m n : Nat} (x : BitVec m) (y : BitVec n) :
    (x ++ y).toNat = x.toNat * 2 ^ n + y.toNat := by
  rw [BitVec.toNat_append, ← Nat.shiftLeft_add_eq_or_of_lt y.isLt, Nat.shiftLeft_eq]

/-- A record as the number its fields make at their places (log entry 1). -/
theorem pack_toNat (z y x : BitVec 64) (line : BitVec 1) (len : Len) (rst : BitVec 1) (form : BitVec 4)
    (code : BitVec 3) :
    (OpWord.pack z y x line len rst form code).toNat =
      code.toNat + form.toNat * 2 ^ 3 + rst.toNat * 2 ^ 7 + len.toNat * 2 ^ 8 + line.toNat * 2 ^ 15 +
        x.toNat * 2 ^ 16 + y.toNat * 2 ^ 80 + z.toNat * 2 ^ 144 := by
  simp only [OpWord.pack, toNat_append_eq_add]
  omega

theorem ofNat_eq_pack {n : Nat} {z y x : BitVec 64} {line : BitVec 1} {len : Len} {rst : BitVec 1}
    {form : BitVec 4} {code : BitVec 3} (h : n = (OpWord.pack z y x line len rst form code).toNat) :
    BitVec.ofNat 208 n = OpWord.pack z y x line len rst form code := by
  rw [h, BitVec.ofNat_toNat, BitVec.setWidth_eq]

/-- A record of form 0 written as a number, whatever its unused bits `j` and `z`. -/
theorem decode_emRecord (a b z : BitVec 64) (j : BitVec 8) {code : Nat} (hc : code < 8) :
    decode (BitVec.ofNat 208
        (code + j.toNat * 2 ^ 8 + a.toNat * 2 ^ 16 + b.toNat * 2 ^ 80 + z.toNat * 2 ^ 144)) =
      .ok (decodeEm (OpWord.pack z b a (j.extractLsb' 7 1) (j.setWidth 7) 0#1 0#4 (BitVec.ofNat 3 code))) := by
  rw [ofNat_eq_pack, decode_of_em (pack_rst ..) (pack_form ..)]
  simp only [pack_toNat, BitVec.extractLsb'_toNat, BitVec.toNat_setWidth, BitVec.toNat_ofNat, Nat.shiftRight_eq_div_pow]
  omega

/-- Settles O5: `decodeEm` of each code, by `decode_emRecord`. -/
theorem emOpCodesDecode : Obligations.EmOpCodesDecode := by
  intro a b z j w
  have decodes : ∀ {code : Nat}, code < 8 → decode (w code) = .ok _ := decode_emRecord a b z j
  have bit_zero : ∀ x : BitVec 64, x[0] = decide (x.toNat % 2 = 1) := fun x => Nat.testBit_zero x.toNat
  refine ⟨?_, ?_, ?_, ?_, ?_, ?_, ?_, ?_⟩ <;> rw [decodes (by decide)] <;>
    simp [decodeEm, bit_zero, BitVec.ofNat_toNat]

/-- The record of a `JT_CMD` written as a number. -/
theorem jtRecord_eq_encodeCommand (c : JtCommand) {sel : Nat} (hs : sel < 8) :
    BitVec.ofNat 208
        (sel + 2 * 2 ^ 3 + c.len.toNat * 2 ^ 8 + c.val.toNat * 2 ^ 16 + c.start.toNat * 2 ^ 80 +
          c.stop.toNat * 2 ^ 144) =
      encodeCommand 2 (BitVec.ofNat 3 sel) 0 c := by
  refine ofNat_eq_pack ?_
  simp only [pack_toNat, BitVec.toNat_ofNat, Nat.mod_eq_of_lt hs]
  rfl

theorem JtCommand.wellFormed_iff (c : JtCommand) : c.wellFormed = true ↔ c.len.toNat ≤ 64 := by
  simp [JtCommand.wellFormed]

/-- Settles O6: a command within `BITS_W` comes back under each selector, a longer one is refused. -/
theorem jtSelectorCodesDecode : Obligations.JtSelectorCodesDecode := by
  intro c w
  have decodes : ∀ sel < 4, decode (w sel) = decodeJt (encodeCommand 2 (BitVec.ofNat 3 sel) 0 c) := fun sel hs =>
    (congrArg decode (jtRecord_eq_encodeCommand c (by omega))).trans (decode_encodeCommand_jt ..)
  constructor
  case left =>
    intro fits
    have fits := c.wellFormed_iff.mpr fits
    refine ⟨?_, ?_, ?_, ?_⟩ <;> rw [decodes _ (by decide)] <;> simp [decodeJt, fits, Except.map]
  case right =>
    intro long sel hs
    have long := mt c.wellFormed_iff.mp (Nat.not_le.mpr long)
    rw [decodes sel hs]
    interval_cases sel <;> simp [decodeJt, long, Except.map]

/-- Settles O2: the decoder, evaluated on each record. -/
theorem writtenWordsDecode : Obligations.WrittenWordsDecode := ⟨rfl, rfl, rfl, rfl⟩

end Sys2Proof

/-! SUPPORT. The values of 30_encoding.md at work: the reset pin (O7), the datarate codes (O11), the instruction table
in state Idle (O36, O37), the rows that fix an operand (O47) and the port triple of a JT annotation (O60). -/

namespace Sys2Proof.Machine

/-! ### The reset pin (R99) -/

theorem rst_eq_one_iff (w : OpWord) : w.rst = 1#1 ↔ w.getLsbD 7 = true := by
  have one_iff : ∀ b : BitVec 1, b = 1#1 ↔ b.getLsbD 0 = true := by decide
  simp [one_iff, OpWord.rst]

/-- Settles O7: the pin alone makes the record a reset, which the step performs. -/
theorem resetPinOverridesEveryOp : Obligations.ResetPinOverridesEveryOp := by
  intro s w rest hp pin
  have performs := stepPerformsTheNextOp.1 s w rest .reset hp (decode_of_rst ((rst_eq_one_iff w).mpr pin))
  exact ⟨_, performs, rfl, rfl, rfl, rfl, rfl, rfl, rfl⟩

/-! ### The datarate codes (R85, R126) -/

/-- An EM op that finishes has the effect `EmEffect` names: four annotations or fewer fit the port's count. -/
theorem emFinish_effect (s : State) (regs : EmRegs) {anns : List EmAnnotation} (few : anns.length ≤ 4) :
    EmEffect s (s.emFinish regs anns) regs anns where
  em := rfl
  jt := rfl
  pending := rfl
  count := (emFinish_emits s regs few).count
  slots := rfl
  noFault := rfl
  jtPort := rfl
  emStream := rfl
  jtStream := rfl

/-- An EM op that writes the datarate `d` and emits nothing does that and nothing else. -/
theorem EmOpWrites.datarate_effect {s : State} {i : Instr} {d : Datarate}
    (hw : EmOpWrites s.em i { s.em with datarate := d } []) :
    ∃ t, exec i s = .next t ∧ EmEffect s t { s.em with datarate := d } [] ∧ t.em.datarate.value = d.value :=
  ⟨_, exec_of_writes hw, emFinish_effect s _ (Nat.zero_le 4), rfl⟩

/-- Settles O11: the op writes the value of its code, the row the same; the reserved code does nothing. -/
theorem datarateCodesWriteTheirValue : Obligations.DatarateCodesWriteTheirValue := by
  intro s
  simp only [List.mem_cons, List.not_mem_nil, or_false, forall_eq_or_imp, forall_eq]
  exact ⟨⟨(EmOpWrites.datarate rfl).datarate_effect, EmOpWrites.datarate64.datarate_effect⟩,
    ⟨(EmOpWrites.datarate rfl).datarate_effect, EmOpWrites.datarate32.datarate_effect⟩,
    ⟨(EmOpWrites.datarate rfl).datarate_effect, EmOpWrites.datarate16.datarate_effect⟩,
    ⟨_, rfl, idleCycle_noEffect s⟩, ⟨_, rfl, idleCycle_noEffect s⟩⟩

/-! ### The effect of an accepted command (R201, R219) -/

/-- A JT command that finishes has the effect `JtEffect` names: two annotations or fewer fit the port's count. -/
theorem jtFinish_effect (s : State) (regs : JtRegs) (fault : regs.fault = s.jt.fault) (c : JtCommand)
    {ps : List JtPayload} (few : ps.length ≤ 2) : JtEffect s (s.jtFinish regs c ps) regs.st c ps where
  em := rfl
  st := rfl
  fault := fault
  pending := rfl
  count := by simpa using (jtFinish_emits s regs c few).count
  ranges := by simp [Function.comp_def]
  kinds := by simp
  noFault := rfl
  emPort := rfl
  emStream := rfl
  jtStream := rfl

/-- An accepted command of a running unit selects the next state and emits its payloads. -/
theorem jtCommand_effect {s : State} {sel : JtSelector} (running : s.jt.fault = false)
    (accepted : jtAccepts s.jt.st sel = true) (c : JtCommand) :
    JtEffect s (s.jtCommand sel c) (jtNext s.jt.st c) c (jtPayloads s.jt.st c) := by
  rcases jtCommand_cases s sel c with ⟨ignored, -⟩ | ⟨-, malformed, -⟩ | ⟨-, -, -, e⟩
  · simp [running, accepted] at ignored
  · rw [malformed] at accepted
    cases sel <;> cases accepted
  · rw [e]
    exact jtFinish_effect s { s.jt with st := jtNext s.jt.st c } rfl c (jtPayloads_count _ c)

/-! ### The instruction table (R88, R202, R204) -/

theorem normVector_toNat (c : JtCommand) : (normVector c).toNat = vectorValue c :=
  Nat.mod_eq_of_lt (Nat.lt_of_le_of_lt (Nat.mod_le ..) c.val.isLt)

theorem vectorValue_lt (c : JtCommand) : vectorValue c < 2 ^ c.len.toNat := Nat.mod_lt _ (Nat.two_pow_pos _)

/-- The pattern of a command is its vector's value modulo 16. -/
theorem patternField_toNat (c : JtCommand) : (patternField (normVector c)).toNat = vectorValue c % 16 := by
  simp [patternField, normVector_toNat]

theorem irTable_eq_ite (p : BitVec 4) :
    irTable p =
      if p.toNat = 0b1111 then .bypass else if p.toNat = 0b1110 then .idcode
      else if p.toNat = 0b1010 then .dpacc else if p.toNat = 0b1011 then .apacc
      else if p.toNat = 0b1000 then .abort else .unknown := by
  revert p; decide

theorem irTable_of_unknown {p : BitVec 4} (hp : knownPattern p = false) : irTable p = .unknown := by
  revert p; decide

/-- In Idle an `"IR TDI"` selects the table's state for its pattern and names it. -/
theorem jtCommand_idle_effect {s : State} (running : s.jt.fault = false) (idle : s.jt.st = .idle) (c : JtCommand)
    {reg : JtSt} (selects : irTable (patternField (normVector c)) = reg) :
    JtEffect s (s.jtCommand .irTdi c) reg c [.irSelect reg] := by
  have effect := jtCommand_effect running (sel := .irTdi) (by rw [idle]; rfl) c
  rw [idle] at effect
  exact selects ▸ effect

/-- Settles O36: the table's state, written out; below four bits the value is below 8, and no pattern of the table
is. -/
theorem idleSelectsByTheTable : Obligations.IdleSelectsByTheTable := by
  intro s c running idle
  refine ⟨_, rfl, jtCommand_idle_effect running idle c ?selects, ?short⟩
  case selects => rw [irTable_eq_ite, patternField_toNat]
  case short =>
    intro short
    have small : vectorValue c < 2 ^ 3 :=
      Nat.lt_of_lt_of_le (vectorValue_lt c) (Nat.pow_le_pow_right (by decide) (by omega))
    iterate 5 rw [if_neg (by omega)]

/-! ### The instruction-pattern rows (R88) -/

section
variable (p : BitVec 4) (t : IrVector)

/-- The pattern bits and those above them fit the length's seven bits. -/
theorem irCommand_len : (irCommand p t).len.toNat = 4 + t.extra.toNat := by
  simp only [irCommand, BitVec.toNat_add, BitVec.toNat_setWidth, BitVec.toNat_ofNat]
  omega

theorem irCommand_wellFormed : (irCommand p t).wellFormed = t.wellFormed := by
  rw [JtCommand.wellFormed, irCommand_len, IrVector.wellFormed]

/-- The pattern stands below whatever bits the vector has above it. -/
theorem vectorValue_irCommand : vectorValue (irCommand p t) % 16 = p.toNat := by
  have divides : 16 ∣ 2 ^ (4 + t.extra.toNat) := Nat.pow_dvd_pow 2 (Nat.le_add_right 4 _)
  rw [vectorValue, irCommand_len, Nat.mod_mod_of_dvd _ divides, irCommand, toNat_append_eq_add]
  omega

theorem patternField_irCommand : patternField (normVector (irCommand p t)) = p :=
  BitVec.eq_of_toNat_eq ((patternField_toNat _).trans (vectorValue_irCommand p t))

end

/-- Settles O37: each row is the `"IR TDI"` with its pattern, for which the table has its state. -/
theorem patternRowsSelectTheirState : Obligations.PatternRowsSelectTheirState := by
  intro s t running idle _
  have row : ∀ p {reg}, irTable p = reg →
      JtEffect s (s.jtCommand .irTdi (irCommand p t)) reg (irCommand p t) [.irSelect reg] := fun p _ selects =>
    jtCommand_idle_effect running idle _ ((congrArg irTable (patternField_irCommand p t)).trans selects)
  exact ⟨⟨_, rfl, row _ rfl⟩, ⟨_, rfl, row _ rfl⟩, ⟨_, rfl, row _ rfl⟩, ⟨_, rfl, row _ rfl⟩, ⟨_, rfl, row _ rfl⟩,
    fun p unknown => ⟨_, rfl, row p (irTable_of_unknown unknown)⟩⟩

/-! ### The rows that fix an operand (R85, R88, R201) -/

/-- Settles O47: a row's meaning is that of the op it names, by definition; what is left is the vector of a pattern
row. -/
theorem operandRowsAreTheirOps : Obligations.OperandRowsAreTheirOps := by
  intro s c t p fits
  simp only [List.mem_cons, List.not_mem_nil, or_false, forall_eq_or_imp, forall_eq]
  exact ⟨⟨rfl, rfl, rfl, rfl⟩,
    ⟨vectorValue_irCommand p t, irCommand_len p t, (irCommand_wellFormed p t).trans fits, rfl, rfl, rfl, rfl, rfl, rfl⟩,
    rfl, ⟨rfl, rfl, rfl, rfl, rfl⟩, ⟨rfl, rfl, rfl, rfl, rfl⟩⟩

/-! ### The port triple of a JT annotation (R97) -/

theorem slot_reg {p : JtPayload} {reg : JtSt} (names : p.reg = some reg) (st : JtSt) (c : JtCommand) :
    (p.slot st c).reg = reg.code := by
  simp [JtPayload.slot, names]

/-- The register a payload names: `IR_SELECT` the state it selects, a data reading the state it finds. -/
theorem jtPayloads_reg {st : JtSt} {c : JtCommand} {p : JtPayload} (hp : p ∈ jtPayloads st c) :
    (p.kind = 0#3 → p.reg = some (jtNext st c)) ∧ (p.kind = 3#3 ∨ p.kind = 4#3 → p.reg = some st) := by
  cases st with
  | idle =>
    obtain rfl := List.mem_singleton.mp hp
    simp [JtPayload.kind, JtPayload.reg, jtNext]
  | bypass | idcode | unknown =>
    obtain rfl := List.mem_singleton.mp hp
    simp [JtPayload.kind]
  | dpacc | apacc =>
    simp only [jtPayloads, List.mem_cons, List.not_mem_nil, or_false] at hp
    rcases hp with rfl | rfl <;> simp [JtPayload.kind, JtPayload.reg]
  | abort =>
    simp only [jtPayloads] at hp
    split at hp <;> simp only [List.mem_cons, List.not_mem_nil, or_false] at hp
    · simp [hp, JtPayload.kind]
    · rcases hp with rfl | rfl <;> simp [JtPayload.kind]
  | code7 => cases hp

/-- Settles O60: a command that emits nothing leaves no slot; of an accepted one each slot is a payload's. -/
theorem jtSlotsCarryTheCommand : Obligations.JtSlotsCarryTheCommand := by
  intro s t c i hi he
  obtain ⟨sel, rfl⟩ : ∃ sel, t = s.jtCommand sel c := by
    simp only [List.mem_cons, List.not_mem_nil, or_false] at hi
    rcases hi with rfl | rfl | rfl <;> cases he <;> exact ⟨_, rfl⟩
  rcases jtCommand_cases s sel c with ⟨-, e⟩ | ⟨-, -, e⟩ | ⟨-, -, -, e⟩ <;> rw [e]
  · simp
  · simp
  · simp only [jtFinish_jtPort, jtPortOf_slots, List.forall_mem_map]
    refine ⟨fun p _ => ⟨rfl, rfl, rfl, normVector_toNat c⟩, fun p hp kind => ?_, fun p hp kind => ?_⟩
    · exact slot_reg ((jtPayloads_reg hp).1 kind) ..
    · exact slot_reg ((jtPayloads_reg hp).2 kind) ..

end Sys2Proof.Machine

/-! SUPPORT. The configuration ops, the batch begin and the reserved op codes of 40_em_config.md at work (O9, O12,
O13), what polarity leaves alone (O10), and `T_cmp` as the exact comparison with the threshold (O14, O15). -/

namespace Sys2Proof.Machine

/-! ### The derived timing values (R121, R122, R124) -/

/-- The threshold as one fraction (R122). -/
theorem halfBitThreshold_eq_div (e : EmRegs) :
    e.halfBitThreshold = (3 * e.samplerate.toNat * e.datarate.value : Rat) / (4 * e.coil.toNat) := by
  unfold EmRegs.halfBitThreshold EmRegs.bitWidth
  ring

namespace EmRegs.CoilInv
variable {e : EmRegs} (coil : e.CoilInv) (x : Pos)
include coil

/-- The number by which R124 multiplies both sides is positive. -/
theorem denominator_pos : (0 : Rat) < 4 * e.coil.toNat := by
  have coil_pos : 0 < e.coil.toNat := Nat.pos_of_ne_zero fun zero => coil (BitVec.eq_of_toNat_eq zero)
  positivity

theorem product_lt_iff :
    4 * e.coil.toNat * x.toNat < 3 * e.samplerate.toNat * e.datarate.value ↔
      (x.toNat : Rat) < e.halfBitThreshold := by
  rw [halfBitThreshold_eq_div, lt_div_iff₀' coil.denominator_pos]
  norm_cast

theorem product_eq_iff :
    4 * e.coil.toNat * x.toNat = 3 * e.samplerate.toNat * e.datarate.value ↔
      (x.toNat : Rat) = e.halfBitThreshold := by
  rw [halfBitThreshold_eq_div, eq_div_iff_mul_eq coil.denominator_pos.ne', mul_comm (x.toNat : Rat)]
  norm_cast

/-- `T_cmp` said with the threshold itself in place of the products (R122, R124). -/
theorem tCmp_eq_ite :
    e.tCmp x = if (x.toNat : Rat) < e.halfBitThreshold then .short
      else if (x.toNat : Rat) = e.halfBitThreshold then .equal else .long := by
  simp only [EmRegs.tCmp, Config.threshDen, Config.threshNum, coil.product_lt_iff, coil.product_eq_iff]

/-- The three classes are the three orders of a length and the threshold. -/
theorem tCmp_iff :
    (e.tCmp x = .short ↔ (x.toNat : Rat) < e.halfBitThreshold) ∧
    (e.tCmp x = .equal ↔ (x.toNat : Rat) = e.halfBitThreshold) ∧
    (e.tCmp x = .long ↔ e.halfBitThreshold < (x.toNat : Rat)) := by
  rw [coil.tCmp_eq_ite]
  rcases lt_trichotomy (x.toNat : Rat) e.halfBitThreshold with less | tie | more
  · simp [less, less.ne, less.not_gt]
  · simp [tie]
  · simp [more, more.ne', more.not_gt]

/-- With an integer threshold the class is a comparison of integers. -/
theorem tCmp_of_integer_threshold {n : Nat} (threshold : e.halfBitThreshold = n) :
    e.tCmp x = if x.toNat < n then .short else if x.toNat = n then .equal else .long := by
  simp only [coil.tCmp_eq_ite, threshold, Nat.cast_lt, Nat.cast_inj]

end EmRegs.CoilInv

/-- Settles O14: `4 * em.coil` is positive, so dividing the products by it changes no comparison; a tie makes one
product the multiple of `4 * em.coil` that the other is. -/
theorem classIsComparisonWithThreshold : Obligations.ClassIsComparisonWithThreshold := by
  intro e x coil
  obtain ⟨short_iff, equal_iff, long_iff⟩ := coil.tCmp_iff x
  refine ⟨short_iff, equal_iff, long_iff, fun tie => ?_⟩
  have products_eq := (coil.product_eq_iff x).mpr (equal_iff.mp tie)
  exact ⟨x.toNat, products_eq.symm⟩

/-- Settles O15: 1 000 000 / 125 000 * 64 = 512, three quarters of it are 384, and the classes are comparisons with
384. -/
theorem workedTimingExample : Obligations.WorkedTimingExample := by
  intro e rate freq datarate
  have coil : e.CoilInv := by rw [EmRegs.CoilInv, freq]; decide
  have width : e.bitWidth = 512 := by
    norm_num [EmRegs.bitWidth, rate, freq, datarate, Datarate.value]
  have threshold : e.halfBitThreshold = 384 := by
    rw [EmRegs.halfBitThreshold, width]; norm_num
  have cls (x : Pos) := coil.tCmp_of_integer_threshold x (n := 384) (by exact_mod_cast threshold)
  exact ⟨width, threshold, cls _, cls _, cls _, cls _, cls _, cls _, cls _⟩

/-! ### Polarity (R123, R125, R147) -/

/-- The value of a symbol, whatever the arm and the position (R147). -/
theorem symbolOf_value (e : EmRegs) (arm : Arm) (position : Pos) :
    (e.symbolOf arm position).value = (e.prevLevel ^^ e.polLow) := rfl

/-- Settles O10: the classes, the guard and the bounds of a symbol do not read `em.pol_low`; its value is the previous
level xor `em.pol_low`. -/
theorem polarityChangesOnlyTheSymbolValue : Obligations.PolarityChangesOnlyTheSymbolValue := by
  intro e b arm position
  refine ⟨rfl, rfl, rfl, ?_⟩
  rw [symbolOf_value]
  cases b with
  | false => exact Bool.xor_false _
  | true => exact Bool.xor_true _

/-! ### Ops that emit nothing (R125, R127 to R130) -/

section
variable {s : State} {i : Instr}

/-- An EM op that writes `regs` and emits nothing completes, and does that and nothing else. -/
theorem EmOpWrites.silent_effect {regs : EmRegs} (hw : EmOpWrites s.em i regs []) :
    ∃ t, exec i s = .next t ∧ EmEffect s t regs [] :=
  ⟨_, exec_of_writes hw, emFinish_effect s _ (Nat.zero_le 4)⟩

/-- An EM op that writes the registers it found and emits nothing has no effect. -/
theorem EmOpWrites.no_effect (hw : EmOpWrites s.em i s.em []) : ∃ t, exec i s = .next t ∧ NoEffect s t :=
  ⟨s.quiet, (exec_of_writes hw).trans (congrArg _ (quiet_eq_emFinish s).symm), idleCycle_noEffect s⟩

end

/-- Settles O9: each clause is one write of `EmOpWrites`. -/
theorem configOpsWriteTheirRegister : Obligations.ConfigOpsWriteTheirRegister := fun _ =>
  ⟨fun b => (EmOpWrites.polarity b).silent_effect, fun _ nonzero => (EmOpWrites.coilfreq nonzero).silent_effect,
    EmOpWrites.coilfreqKept.no_effect, fun rate => (EmOpWrites.samplerate rate).silent_effect⟩

/-- Settles O12: the op writes or raises by the sample rate; the fault leaves the batch closed, so each sample after
it is discarded. -/
theorem batchChecksTheSampleRate : Obligations.BatchChecksTheSampleRate := by
  constructor
  case left =>
    intro w pin form code
    rw [decode_of_em pin form]
    simp [decodeEm, code]
  case right =>
    intro s bstart bend
    constructor
    case left => exact fun rate_set => (EmOpWrites.batch rate_set).silent_effect
    case right =>
      intro unset
      have closed : (s.takeFault .configurationError).em.batchOk = false := rfl
      exact ⟨_, exec_emBatch_raises unset, rfl, rfl, rfl, rfl, rfl, rfl, rfl,
        fun _ _ => (EmOpWrites.noEdge (.inl closed)).no_effect⟩

/-- Settles O13: both codes decode to an op that writes the registers it found. -/
theorem reservedEmOpsDoNothing : Obligations.ReservedEmOpsDoNothing := by
  constructor
  case left =>
    intro w pin form
    rw [decode_of_em pin form]
    exact ⟨fun code => by simp [decodeEm, code], fun code => by simp [decodeEm, code]⟩
  case right =>
    intro s
    simp only [List.mem_cons, List.not_mem_nil, or_false, forall_eq_or_imp, forall_eq]
    exact ⟨EmOpWrites.reserved6.no_effect, EmOpWrites.reserved7.no_effect⟩

end Sys2Proof.Machine

/-! SUPPORT. Samples and edges of 41_em_edge_pulse.md: which samples are edges (O17, O18), what an edge writes and hands
to `FrameStep` (O20, O21, O22), where its symbol lies (O23), that tracking and framing are separate (O32) and what stops
the machine (O55). -/

namespace Sys2Proof.Machine

/-! ### Samples that are no edge (R143, R144) -/

/-- Settles O17: with no batch open a sample is one of those that write nothing. -/
theorem samplesOutsideABatchAreDiscarded : Obligations.SamplesOutsideABatchAreDiscarded :=
  fun _ _ _ closed => (EmOpWrites.noEdge (.inl closed)).no_effect

/-- An op without effect is invisible to the op after it: it leaves only the ports different, and however an op ends
it sets both ports and reads neither, so the two sides compute to the same outcome. -/
theorem exec_quiet (i : Instr) (s : State) : exec i s.quiet = exec i s := by
  cases i <;> rfl

/-- Settles O18: the first sample writes the three tracking registers; a repeated level leaves `s.quiet`, which no op
tells from `s`. -/
theorem onlyLevelChangesAreEdges : Obligations.OnlyLevelChangesAreEdges := by
  intro s position level batch
  constructor
  case left => exact fun unseen => (EmOpWrites.firstSample batch unseen).silent_effect
  case right =>
    intro seen repeated
    have ignored : exec (.emSample position level) s = .next s.quiet :=
      (exec_of_writes (.noEdge (.inr ⟨seen, repeated⟩))).trans (congrArg _ (quiet_eq_emFinish s).symm)
    exact ⟨s.quiet, ignored, idleCycle_noEffect s, fun i => exec_quiet i s⟩

/-! ### Which arm fires (R146, R151, R152) -/

section
variable {e : EmRegs} {position : Pos} {level : Bool} {arm : Arm}

/-- The arm depends on the two classes and the guard alone. -/
theorem edgeArm_of_classes {c oc : PulseClass} (current : e.tCmp (position - e.prevPos) = c)
    (previous : e.tCmp e.oldpl = oc) : e.edgeArm position = emissionArm c oc e.anchorGuard := by
  rw [EmRegs.edgeArm, EmRegs.pulseLength, current, previous]

theorem emissionArm_equal_left (oc : PulseClass) (guard : Bool) : emissionArm .equal oc guard = none := by
  cases oc <;> rfl

theorem emissionArm_equal_right (c : PulseClass) (guard : Bool) : emissionArm c .equal guard = none := by
  cases c <;> rfl

/-- The dead zone: no arm fires if either length is at the threshold (R146). -/
theorem edgeArm_eq_none_of_equal
    (dead : e.tCmp (position - e.prevPos) = .equal ∨ e.tCmp e.oldpl = .equal) : e.edgeArm position = none := by
  rcases dead with current | previous
  · rw [edgeArm_of_classes current rfl, emissionArm_equal_left]
  · rw [edgeArm_of_classes rfl previous, emissionArm_equal_right]

/-- The guard of R151 as the spec writes it: under the tracking invariant the subtraction is exact. -/
theorem EmRegs.TrackInv.anchorGuard_eq (h : e.TrackInv) :
    e.anchorGuard = decide (e.lastBitPos.toNat ≤ e.prevPos.toNat - e.oldpl.toNat) := by
  have oldpl_le : e.oldpl.toNat ≤ e.prevPos.toNat := h.oldpl_le
  exact decide_eq_decide.mpr (Nat.le_sub_iff_add_le oldpl_le).symm

/-! ### Where a symbol lies (R148 to R151, R155) -/

@[simp] theorem half_toNat (x : Pos) : (half x).toNat = x.toNat / 2 := by
  rw [half, BitVec.toNat_ushiftRight, Nat.shiftRight_eq_div_pow, pow_one]

/-- A symbol stops after the edge that its pulse began with. -/
theorem Arm.recede_lt (arm : Arm) {pl : Pos} (nonempty : 0 < pl.toNat) : (arm.recede pl).toNat < pl.toNat := by
  cases arm with
  | longAfterLong | longAfterShort =>
    rw [Arm.recede, half_toNat]
    omega
  | shortAfterLong | shortAfterShort => exact nonempty

/-- At an edge in order the pulse length is the difference of the positions. -/
theorem pulseLength_toNat (later : e.prevPos < position) :
    (e.pulseLength position).toNat = position.toNat - e.prevPos.toNat :=
  BitVec.toNat_sub_of_le (BitVec.le_of_lt later)

/-- Under the tracking invariant the start of a symbol does not wrap. -/
theorem symbolOf_start_toNat (h : e.TrackInv) (arm : Arm) (position : Pos) :
    (e.symbolOf arm position).start.toNat = e.prevPos.toNat - (arm.reach e.oldpl).toNat :=
  BitVec.toNat_sub_of_le (BitVec.not_lt.mp (h.reach_le_prevPos arm))

/-- At an edge in order a symbol stops less than the current pulse before it. -/
theorem recede_pulseLength_lt (later : e.prevPos < position) (arm : Arm) :
    (arm.recede (e.pulseLength position)).toNat < position.toNat - e.prevPos.toNat := by
  have length := pulseLength_toNat later
  have nonempty : 0 < (e.pulseLength position).toNat := length ▸ Nat.sub_pos_of_lt later
  exact length ▸ arm.recede_lt nonempty

/-- At an edge in order the stop of a symbol does not wrap. -/
theorem symbolOf_stop_toNat (later : e.prevPos < position) (arm : Arm) :
    (e.symbolOf arm position).stop.toNat = position.toNat - (arm.recede (e.pulseLength position)).toNat :=
  BitVec.toNat_sub_of_le (Nat.le_of_lt (Nat.lt_of_lt_of_le (recede_pulseLength_lt later arm) (Nat.sub_le _ _)))

/-- Settles O23: a symbol starts a part of the previous pulse before the previous edge, and stops less than the current
pulse before the current one. -/
theorem symbolsStraddleThePreviousEdge : Obligations.SymbolsStraddleThePreviousEdge := by
  intro e position arm h later _
  have recede_lt := recede_pulseLength_lt later arm
  rw [symbolOf_start_toNat h, symbolOf_stop_toNat later]
  omega

/-! ### What an edge writes (R148 to R154) -/

/-- With no arm firing, an edge writes the tracking registers of R153 alone. -/
theorem track_none (e : EmRegs) (position : Pos) (level : Bool) :
    e.track none position level = e.afterEdge position level := rfl

/-- A long arm leaves the anchor, so it writes what an edge without an arm does (R148, R149). -/
theorem track_of_not_anchors (keeps : arm.anchors = false) :
    e.track (some arm) position level = e.afterEdge position level := by
  simp [EmRegs.track, EmRegs.afterEdge, EmRegs.pulseLength, keeps]

/-- A short arm puts the anchor at the edge as well (R150, R151). -/
theorem track_of_anchors (anchors : arm.anchors = true) :
    e.track (some arm) position level = { e.afterEdge position level with lastBitPos := position } := by
  simp [EmRegs.track, EmRegs.afterEdge, EmRegs.pulseLength, anchors]

end

section
variable {s : State} {position : Pos} {level : Bool} {arm : Arm}

/-- An edge at which no arm fires only updates the tracking registers. -/
theorem AtEdge.silent_effect (at_edge : AtEdge s position level) (silent : s.em.edgeArm position = none) :
    ∃ t, exec (.emSample position level) s = .next t ∧ EmEffect s t (s.em.afterEdge position level) [] := by
  rw [← track_none]
  exact (EmOpWrites.silentEdge (atEdge_iff.mp at_edge) silent).silent_effect

/-- An edge at which an arm fires updates the tracking registers and hands the arm's symbol to `FrameStep`. -/
theorem AtEdge.handsOver (at_edge : AtEdge s position level) (h : s.em.TrackInv)
    (fires : s.em.edgeArm position = some arm) :
    ∃ t, exec (.emSample position level) s = .next t ∧
      HandsOver s t (s.em.track (some arm) position level) (s.em.prevLevel ^^ s.em.polLow)
        (s.em.prevPos.toNat - (arm.reach s.em.oldpl).toNat)
        (position.toNat - (arm.recede (s.em.pulseLength position)).toNat) := by
  have writes := EmOpWrites.symbolEdge (atEdge_iff.mp at_edge) fires (h.reach_le_prevPos arm)
  exact ⟨_, exec_of_writes writes, s.em.symbolOf arm position, symbolOf_value _ _ _, symbolOf_start_toNat h _ _,
    symbolOf_stop_toNat at_edge.later _, emFinish_effect s _ (frameStep_count _ _)⟩

end

/-- Settles O20: in the dead zone no arm fires. -/
theorem deadZoneEdgesEmitNothing : Obligations.DeadZoneEdgesEmitNothing :=
  fun _ _ _ at_edge dead => at_edge.silent_effect (edgeArm_eq_none_of_equal dead)

/-- Settles O21: the classes pick the arm, whose symbol reaches back half the previous pulse or all of it. -/
theorem longPulsesEmit : Obligations.LongPulsesEmit := by
  intro s position level at_edge h current
  constructor
  case left =>
    intro previous
    have emits := at_edge.handsOver h (arm := .longAfterLong) (edgeArm_of_classes current previous)
    rwa [track_of_not_anchors rfl, Arm.reach, Arm.recede, half_toNat, half_toNat,
      pulseLength_toNat at_edge.later] at emits
  case right =>
    intro previous
    have emits := at_edge.handsOver h (arm := .longAfterShort) (edgeArm_of_classes current previous)
    rwa [track_of_not_anchors rfl, Arm.reach, Arm.recede, half_toNat, pulseLength_toNat at_edge.later] at emits

/-- Settles O22: the classes and the guard pick the arm, whose symbol stops at the edge; with the guard false no arm
fires. -/
theorem shortPulsesEmitAndAnchor : Obligations.ShortPulsesEmitAndAnchor := by
  intro s position level at_edge h current
  refine ⟨?after_long, ?after_short, ?guard_false⟩
  case after_long =>
    intro previous
    have emits := at_edge.handsOver h (arm := .shortAfterLong) (edgeArm_of_classes current previous)
    rwa [track_of_anchors rfl, Arm.reach, half_toNat] at emits
  case after_short =>
    intro previous anchor_before
    have fires : s.em.edgeArm position = some .shortAfterShort := by
      rw [edgeArm_of_classes current previous, h.anchorGuard_eq, decide_eq_true anchor_before]
      rfl
    have emits := at_edge.handsOver h fires
    rwa [track_of_anchors rfl, Arm.reach] at emits
  case guard_false =>
    intro previous anchor_after
    refine at_edge.silent_effect ?_
    rw [edgeArm_of_classes current previous, h.anchorGuard_eq, decide_eq_false (Nat.not_le.mpr anchor_after)]
    rfl

/-! ### Tracking and framing (R154, R170) -/

/-- The configuration, status and edge-tracking registers of `e` beside the frame registers of `f`. -/
def EmRegs.withFrameOf (e f : EmRegs) : EmRegs :=
  { f with
    polLow := e.polLow, datarate := e.datarate, coil := e.coil, samplerate := e.samplerate, batchOk := e.batchOk
    cfgFault := e.cfgFault, havePrev := e.havePrev, prevLevel := e.prevLevel, prevPos := e.prevPos
    oldpl := e.oldpl, lastBitPos := e.lastBitPos }

section
variable (e f : EmRegs) (sym : BitSymbol)

theorem withFrameOf_self : e.withFrameOf e = e := rfl

theorem withFrameOf_fs : (e.withFrameOf f).fs = f.fs := rfl

theorem headerStep_withFrameOf :
    (e.withFrameOf f).headerStep sym = (e.withFrameOf (f.headerStep sym).1, (f.headerStep sym).2) := by
  unfold EmRegs.headerStep EmRegs.withFrameOf
  dsimp only
  split_ifs <;> rfl

theorem payloadStep_withFrameOf :
    (e.withFrameOf f).payloadStep sym = (e.withFrameOf (f.payloadStep sym).1, (f.payloadStep sym).2) := by
  unfold EmRegs.payloadStep EmRegs.withFrameOf
  dsimp only
  split <;> rfl

theorem trailerStep_withFrameOf :
    (e.withFrameOf f).trailerStep sym = (e.withFrameOf (f.trailerStep sym).1, (f.trailerStep sym).2) := by
  unfold EmRegs.trailerStep EmRegs.withFrameOf
  dsimp only
  split <;> rfl

/-- `FrameStep` reads and writes frame registers only, in each of its three states. -/
theorem frameStep_withFrameOf :
    (e.withFrameOf f).frameStep sym = (e.withFrameOf (f.frameStep sym).1, (f.frameStep sym).2) := by
  unfold EmRegs.frameStep EmRegs.frameArm
  rw [withFrameOf_fs]
  cases f.fs with
  | header => simp only [headerStep_withFrameOf]
  | payload => simp only [payloadStep_withFrameOf]
  | trailer => simp only [trailerStep_withFrameOf]

/-- `FrameStep` leaves the other registers: it leaves those it is given (`frameStep_withFrameOf`), here its own. -/
theorem withFrameOf_frameStep : e.withFrameOf (e.frameStep sym).1 = (e.frameStep sym).1 := by
  have own := frameStep_withFrameOf e e sym
  rw [withFrameOf_self] at own
  exact (congrArg Prod.fst own).symm

end

/-- Settles O32: `FrameStep` by `frameStep_withFrameOf`; the steps before it name no frame register. -/
theorem frameAndTrackingAreSeparate : Obligations.FrameAndTrackingAreSeparate :=
  fun e e' sym _ _ =>
    ⟨frameStep_withFrameOf e' e sym, withFrameOf_frameStep e sym, rfl, rfl, fun _ _ => ⟨rfl, rfl⟩⟩

/-! ### What stops the machine (R144, R155, R221, R271) -/

/-- Every op but a sample completes in every state. -/
theorem exec_completes_of_ne_emSample {i : Instr} (not_sample : ∀ position level, i ≠ .emSample position level)
    (s : State) : Completes (exec i s) := by
  by_cases jt : isJtOp i = true
  · obtain ⟨sel, c, he⟩ := exec_jt_command jt
    exact ⟨_, he s⟩
  cases i with
  | emSample position level => exact absurd rfl (not_sample position level)
  | emCfgCoilfreq coil =>
    simp only [exec, execEmCfgCoilfreq]
    split_ifs <;> exact ⟨_, rfl⟩
  | emBatch a b =>
    simp only [exec, execEmBatch]
    split_ifs <;> exact ⟨_, rfl⟩
  | emCfgPolarity | emCfgDatarate | emSetSamplerate | emReserved6 | emReserved7 | datarate64 | datarate32
  | datarate16 | datarateReserved | reset => exact ⟨_, rfl⟩
  | _ => exact absurd rfl jt

/-- In a declared state no op raises `InternalConsistencyError` (R221). -/
theorem exec_jtPort_faultCode {s t : State} {i : Instr} (declared : s.jt.st ≠ .code7) (he : exec i s = .next t) :
    t.jtPort.faultCode = 0#2 := by
  rcases exec_cases he with ⟨-, rfl⟩ | ⟨-, -, rfl⟩ | ⟨regs, anns, -, rfl⟩ | ⟨sel, c, -, rfl⟩
  · rfl
  · rfl
  · rfl
  · rcases jtCommand_cases s sel c with ⟨-, e⟩ | ⟨-, malformed, -⟩ | ⟨-, -, -, e⟩
    · rw [e]; rfl
    · exact absurd malformed declared
    · rw [e]; rfl

/-- Settles O55: only a sample can stop, under the tracking invariant only as R271 asks, and `jt.st` is declared. -/
theorem onlyDisorderStopsTheMachine : Obligations.OnlyDisorderStopsTheMachine := by
  intro s i h
  have no_error : Completes (exec i s) → ∃ t, exec i s = .next t ∧ t.jtPort.faultCode = 0#2 :=
    fun ⟨t, he⟩ => ⟨t, he, exec_jtPort_faultCode h.jt.1 he⟩
  by_cases sample : ∃ position level, i = .emSample position level
  case neg =>
    exact .inl (no_error (exec_completes_of_ne_emSample (fun p l hi => sample ⟨p, l, hi⟩) s))
  case pos =>
    obtain ⟨position, level, rfl⟩ := sample
    rcases execEmSample_cases position level s with
      ⟨-, e⟩ | ⟨-, -, e⟩ | ⟨batch, seen, changed, not_later, e⟩ | ⟨-, e⟩
    · exact .inl (no_error ⟨_, e⟩)
    · exact .inl (no_error ⟨_, e⟩)
    · exact .inr ⟨e, position, level, rfl, batch, seen, changed, not_later⟩
    · have completes := edge_completes h.track position level
      rw [← e] at completes
      exact .inl (no_error completes)

end Sys2Proof.Machine

/-! SUPPORT. The frame state machine of 42_em_frame.md: what one symbol does in each frame state (O25 to O31), what a
group does (O33), and what a whole frame emits and leaves (O34, O35). -/

namespace Sys2Proof.Machine

/-! ### Bits, nibbles and 4-element arrays (R177, R184) -/

theorem bitPayload_eq_bitWord (b : Bool) : bitPayload b = bitWord b := by cases b <;> rfl

theorem shiftNibble_eq_ofNat (nib : BitVec 4) (v : Bool) :
    shiftNibble nib v = BitVec.ofNat 4 (2 * nib.toNat + v.toNat) := by
  revert nib v; decide

theorem Bits4.word_eq_ofNat (q : Bits4) :
    q.word = BitVec.ofNat 4
      (8 * (q.get 0).toNat + 4 * (q.get 1).toNat + 2 * (q.get 2).toNat + (q.get 3).toNat) := by
  obtain ⟨b0, b1, b2, b3⟩ := q
  revert b0 b1 b2 b3; decide

theorem Bits4.get_put (q : Bits4) {j k : Nat} (hj : j < 4) (hk : k < 4) (v : Bool) :
    (q.put j v).get k = if k = j then v else q.get k := by
  interval_cases j <;> interval_cases k <;> rfl

theorem Bits4.get_fold (q : Bits4) {j k : Nat} (hj : j < 4) (hk : k < 4) (v : Bool) :
    (q.fold j v).get k = if k = j then (q.get k ^^ v) else q.get k := by
  rw [Bits4.fold, Bits4.get_put q hj hk]
  split_ifs with same
  · rw [same]
  · rfl

theorem colParityOk_eq_all (col tb : Bits4) :
    colParityOk col tb = [0, 1, 2, 3].all fun k => col.get k == tb.get k := by
  simp [colParityOk, Bits4.get, Bool.and_assoc]

/-! ### What `FrameStep` does with one symbol (R171 to R185) -/

theorem annotation_eq (sym : BitSymbol) : sym.annotation = ⟨.bit, sym.start, sym.stop, bitWord sym.value⟩ := by
  rw [BitSymbol.annotation, bitPayload_eq_bitWord]

/-- The categories a frame state can emit besides `BIT`. -/
def FrameState.categories : FrameState → List EmCat
  | .header => [.header]
  | .payload => [.data, .parity, .rowparVerdict]
  | .trailer => [.colparField, .stopbit, .colparVerdict]

theorem bit_notMem_categories (fs : FrameState) : EmCat.bit ∉ fs.categories := by cases fs <;> decide

theorem header_notMem_categories {fs : FrameState} (framed : fs ≠ .header) : EmCat.header ∉ fs.categories := by
  cases fs with
  | header => exact absurd rfl framed
  | payload => decide
  | trailer => decide

section
variable {e : EmRegs} {sym : BitSymbol}

/-- An arm emits nothing, or one annotation of each category of its state, in their order (R175, R178, R184). -/
theorem frameArm_categories (e : EmRegs) (sym : BitSymbol) :
    (e.frameArm sym).2.map EmAnnotation.cat = [] ∨ (e.frameArm sym).2.map EmAnnotation.cat = e.fs.categories := by
  unfold EmRegs.frameArm
  cases e.fs with
  | header => simp only [EmRegs.headerStep]; split_ifs <;> simp [FrameState.categories]
  | payload => simp only [EmRegs.payloadStep]; split <;> simp [FrameState.categories]
  | trailer => simp only [EmRegs.trailerStep]; split <;> simp [FrameState.categories]

theorem cat_mem_categories {a : EmAnnotation} (emitted : a ∈ (e.frameArm sym).2) : a.cat ∈ e.fs.categories := by
  have mem := List.mem_map_of_mem (f := EmAnnotation.cat) emitted
  rcases frameArm_categories e sym with nothing | all
  · rw [nothing] at mem; cases mem
  · rwa [all] at mem

/-- A `0` outside a frame clears the run (R174). -/
theorem frameStep_header_zero (header : e.fs = .header) (zero : sym.value = false) :
    e.frameStep sym = ({ e with run := 0 }, [sym.annotation]) := by
  simp [EmRegs.frameStep, EmRegs.frameArm, header, EmRegs.headerStep, zero]

/-- A `1` that does not complete the header counts, and starts the candidate if it is the first (R173). -/
theorem frameStep_header_one (header : e.fs = .header) (one : sym.value = true) (incomplete : e.run ≠ 8) :
    e.frameStep sym =
      ({ e with run := e.run + 1, hstart := if e.run = 0 then sym.start else e.hstart }, [sym.annotation]) := by
  simp [EmRegs.frameStep, EmRegs.frameArm, header, EmRegs.headerStep, one, incomplete]

/-- The ninth `1` completes the header (R175). -/
theorem frameStep_header_ninth (header : e.fs = .header) (one : sym.value = true) (eight : e.run = 8) :
    e.frameStep sym =
      ({ e with run := 0, fs := .payload }, [sym.annotation, ⟨.header, e.hstart, sym.stop, 0#4⟩]) := by
  simp [EmRegs.frameStep, EmRegs.frameArm, header, EmRegs.headerStep, one, eight]

/-- A data bit of a group (R177). -/
theorem frameStep_data (payload : e.fs = .payload) (data : e.pcnt % 5 < 4) :
    e.frameStep sym =
      ({ e with
          gstart := if e.pcnt % 5 = 0 then sym.start else e.gstart
          nib := shiftNibble e.nib sym.value
          rpar := e.rpar ^^ sym.value
          col := e.col.fold (e.pcnt % 5) sym.value
          dstop := if e.pcnt % 5 = 3 then sym.stop else e.dstop
          pcnt := e.pcnt + 1 }, [sym.annotation]) := by
  simp [EmRegs.frameStep, EmRegs.frameArm, payload, EmRegs.payloadStep, data]

/-- The row-parity bit of a group (R178, R179). -/
theorem frameStep_parity (payload : e.fs = .payload) (parity : e.pcnt % 5 = 4) :
    e.frameStep sym =
      ({ e with
          nib := 0#4
          rpar := false
          pcnt := if e.pcnt = 49 then 0 else e.pcnt + 1
          fs := if e.pcnt = 49 then .trailer else .payload },
        [sym.annotation, ⟨.data, e.gstart, e.dstop, e.nib⟩, ⟨.parity, sym.start, sym.stop, bitWord sym.value⟩,
         ⟨.rowparVerdict, sym.start, sym.stop, bitWord (e.rpar == sym.value)⟩]) := by
  simp [EmRegs.frameStep, EmRegs.frameArm, payload, EmRegs.payloadStep, parity, rowParityOk, bitPayload_eq_bitWord]

/-- A column-parity bit (R183). -/
theorem frameStep_column (trailer : e.fs = .trailer) (column : e.tcnt < 4) :
    e.frameStep sym =
      ({ e with
          tstart := if e.tcnt = 0 then sym.start else e.tstart
          tb := e.tb.put e.tcnt sym.value
          tstop := if e.tcnt = 3 then sym.stop else e.tstop
          tcnt := e.tcnt + 1 }, [sym.annotation]) := by
  simp [EmRegs.frameStep, EmRegs.frameArm, trailer, EmRegs.trailerStep, column]

/-- The stop bit (R184, R185). -/
theorem frameStep_stop (trailer : e.fs = .trailer) (stop : e.tcnt = 4) :
    e.frameStep sym =
      ({ e with col := .zero, tb := .zero, tcnt := 0, fs := .header },
        [sym.annotation, ⟨.colparField, e.tstart, e.tstop, e.tb.word⟩,
         ⟨.stopbit, sym.start, sym.stop, bitWord sym.value⟩,
         ⟨.colparVerdict, e.tstart, e.tstop, bitWord (colParityOk e.col e.tb)⟩]) := by
  simp [EmRegs.frameStep, EmRegs.frameArm, trailer, EmRegs.trailerStep, stop, bitPayload_eq_bitWord]

/-- Outside `Header` no symbol counts, and the header candidate stays (R175). -/
theorem frameStep_keeps_run (framed : e.fs ≠ .header) :
    (e.frameStep sym).1.run = e.run ∧ (e.frameStep sym).1.hstart = e.hstart := by
  unfold EmRegs.frameStep EmRegs.frameArm
  cases hfs : e.fs with
  | header => exact absurd hfs framed
  | payload => simp only [EmRegs.payloadStep]; split <;> exact ⟨rfl, rfl⟩
  | trailer => simp only [EmRegs.trailerStep]; split <;> exact ⟨rfl, rfl⟩

end

/-- Settles O25: no frame state has `BIT` among the categories its arm emits. -/
theorem everySymbolEmitsItsBitFirst : Obligations.EverySymbolEmitsItsBitFirst := by
  intro e sym
  refine ⟨(e.frameArm sym).2, by rw [EmRegs.frameStep, annotation_eq], fun a emitted is_bit => ?_⟩
  exact bit_notMem_categories e.fs (is_bit ▸ cat_mem_categories emitted)

/-- Settles O26: the header arm on a `1` before and after the header is complete, and on a `0`. -/
theorem headerCountsConsecutiveOnes : Obligations.HeaderCountsConsecutiveOnes := by
  intro e sym header
  refine ⟨fun one few => ?_, fun one started => ?_, fun zero => ?_⟩
  · rw [frameStep_header_one header one (by omega), annotation_eq, one]; rfl
  · by_cases eight : e.run = 8
    · rw [frameStep_header_ninth header one eight]
    · rw [frameStep_header_one header one eight]
      exact if_neg (by omega)
  · rw [frameStep_header_zero header zero, annotation_eq, zero]; rfl

/-- Settles O27: the header arm on the ninth `1`; the two other arms neither count nor can emit `HEADER`. -/
theorem ninthOneMakesTheHeader : Obligations.NinthOneMakesTheHeader := by
  intro e sym
  constructor
  case left =>
    intro header eight one
    rw [frameStep_header_ninth header one eight, annotation_eq, one]; rfl
  case right =>
    intro framed
    obtain ⟨run_kept, hstart_kept⟩ := frameStep_keeps_run (sym := sym) framed
    refine ⟨run_kept, hstart_kept, fun a emitted is_header => ?_⟩
    rcases List.mem_cons.mp emitted with rfl | emitted
    · cases is_header
    · exact header_notMem_categories framed (is_header ▸ cat_mem_categories emitted)

/-- Settles O28: `frameStep_data`, with the shift as arithmetic and the fold column by column. -/
theorem dataBitsAccumulate : Obligations.DataBitsAccumulate := by
  intro e sym payload data
  rw [frameStep_data payload data, annotation_eq]
  exact ⟨rfl, shiftNibble_eq_ofNat _ _, rfl, fun k hk => Bits4.get_fold _ data hk _, rfl, rfl, rfl, rfl⟩

/-- Settles O29: `frameStep_parity`, before and at the fiftieth bit. -/
theorem parityBitEndsTheGroup : Obligations.ParityBitEndsTheGroup := by
  intro e sym payload parity
  rw [frameStep_parity payload parity, annotation_eq]
  refine ⟨rfl, ?_⟩
  by_cases last : e.pcnt = 49
  · simp [last]
  · simp [last, payload]

/-- Settles O30: `frameStep_column`, with the array bit by bit. -/
theorem trailerBitsAreKept : Obligations.TrailerBitsAreKept := by
  intro e sym trailer column
  rw [frameStep_column trailer column, annotation_eq]
  exact ⟨rfl, fun k hk => Bits4.get_put _ column hk _, rfl, rfl, rfl, rfl⟩

/-- Settles O31: the word and the verdict of the two arrays, bit by bit. -/
theorem stopBitEndsTheFrame : Obligations.StopBitEndsTheFrame := by
  intro e sym trailer stop
  rw [frameStep_stop trailer stop, annotation_eq, Bits4.word_eq_ofNat, colParityOk_eq_all]
  exact ⟨rfl, rfl⟩

/-! ### Runs of symbols -/

/-- Two runs, one after the other: the second starts from the registers the first leaves. -/
theorem frameRun_append {e e₁ e₂ : EmRegs} {xs ys : List BitSymbol} {as bs : List EmAnnotation}
    (first : e.frameRun xs = (e₁, as)) (second : e₁.frameRun ys = (e₂, bs)) :
    e.frameRun (xs ++ ys) = (e₂, as ++ bs) := by
  induction xs generalizing e as with
  | nil => cases first; exact second
  | cons x xs ih =>
    cases first
    rw [List.cons_append, EmRegs.frameRun, ih rfl]
    simp

/-- Where the `k`-th symbol of a group or trailer starts. -/
def startAt (g : List BitSymbol) (k : Nat) : Pos := ((g[k]?).map BitSymbol.start).getD 0

/-- Where the `k`-th symbol of a group or trailer stops. -/
def stopAt (g : List BitSymbol) (k : Nat) : Pos := ((g[k]?).map BitSymbol.stop).getD 0

/-- A group or a trailer has four bits and a fifth. -/
theorem exists_five_of_length {g : List BitSymbol} (five : g.length = 5) :
    ∃ d0 d1 d2 d3 p, g = [d0, d1, d2, d3, p] := by
  match g, five with
  | [d0, d1, d2, d3, p], _ => exact ⟨d0, d1, d2, d3, p, rfl⟩

/-! ### A header (R173, R175) -/

/-- From a run of `n`, `9 - n` further ones make the header. -/
theorem frameRun_header {ones : List BitSymbol} (all_ones : ∀ x ∈ ones, x.value = true) {e : EmRegs}
    (header : e.fs = .header) (few : e.run ≤ 8) (nine : e.run + ones.length = 9) :
    ∃ hstart hstop, e.frameRun ones =
      ({ e with run := 0, hstart := hstart, fs := .payload },
        ones.map BitSymbol.annotation ++ [⟨.header, hstart, hstop, 0#4⟩]) := by
  induction ones generalizing e with
  | nil => simp at nine; omega
  | cons x xs ih =>
    have one : x.value = true := all_ones x List.mem_cons_self
    rw [List.length_cons] at nine
    by_cases eight : e.run = 8
    case pos =>
      obtain rfl : xs = [] := List.length_eq_zero_iff.mp (by omega)
      exact ⟨e.hstart, x.stop, by simp [EmRegs.frameRun, frameStep_header_ninth header one eight]⟩
    case neg =>
      obtain ⟨hstart, hstop, later⟩ := ih (fun y hy => all_ones y (List.mem_cons_of_mem x hy))
        (e := { e with run := e.run + 1, hstart := if e.run = 0 then x.start else e.hstart }) header
        (by dsimp only; omega) (by dsimp only; omega)
      refine ⟨hstart, hstop, ?_⟩
      rw [EmRegs.frameRun, frameStep_header_one header one eight, later]
      rfl

/-! ### A group (R177 to R180) -/

/-- The columns after a group: each of its data bits folded into its own. -/
def Bits4.foldGroup (q : Bits4) (g : List BitSymbol) : Bits4 :=
  ⟨q.b0 ^^ bitAt g 0, q.b1 ^^ bitAt g 1, q.b2 ^^ bitAt g 2, q.b3 ^^ bitAt g 3⟩

/-- What a group emits. -/
def groupAnnotations (g : List BitSymbol) : List EmAnnotation :=
  g.map BitSymbol.annotation ++
    [⟨.data, startAt g 0, stopAt g 3, BitVec.ofNat 4 (nibbleOf g)⟩,
     ⟨.parity, startAt g 4, stopAt g 4, bitWord (bitAt g 4)⟩,
     ⟨.rowparVerdict, startAt g 4, stopAt g 4, bitWord (rowOk g)⟩]

/-- Four bits shifted into an empty nibble, as a number. -/
theorem shiftNibble_four (d0 d1 d2 d3 : Bool) :
    shiftNibble (shiftNibble (shiftNibble (shiftNibble 0#4 d0) d1) d2) d3 =
      BitVec.ofNat 4 (8 * d0.toNat + 4 * d1.toNat + 2 * d2.toNat + d3.toNat) := by
  revert d0 d1 d2 d3; decide

/-- The four data bits of a group, from its start. -/
theorem frameRun_data_bits {e : EmRegs} {n : Nat} (payload : e.fs = .payload) (at_start : e.pcnt = 5 * n)
    (d0 d1 d2 d3 : BitSymbol) :
    e.frameRun [d0, d1, d2, d3] =
      ({ e with
          gstart := d0.start
          nib := shiftNibble (shiftNibble (shiftNibble (shiftNibble e.nib d0.value) d1.value) d2.value) d3.value
          rpar := e.rpar ^^ d0.value ^^ d1.value ^^ d2.value ^^ d3.value
          col := e.col.foldGroup [d0, d1, d2, d3]
          dstop := d3.stop
          pcnt := 5 * n + 4 }, [d0, d1, d2, d3].map BitSymbol.annotation) := by
  simp [EmRegs.frameRun, frameStep_data, payload, at_start, Nat.add_assoc, Bits4.fold, Bits4.foldGroup,
    Bits4.put, Bits4.get, bitAt]

/-- A whole group, from its start (R180). -/
theorem frameRun_group {e : EmRegs} {n : Nat} (payload : e.fs = .payload) (at_start : e.pcnt = 5 * n)
    (nib_clear : e.nib = 0#4) (rpar_clear : e.rpar = false) {g : List BitSymbol} (five : g.length = 5) :
    e.frameRun g =
      ({ e with
          gstart := startAt g 0
          dstop := stopAt g 3
          col := e.col.foldGroup g
          pcnt := if n = 9 then 0 else 5 * (n + 1)
          fs := if n = 9 then .trailer else .payload }, groupAnnotations g) := by
  obtain ⟨d0, d1, d2, d3, p, rfl⟩ := exists_five_of_length five
  have last : 5 * n + 4 = 49 ↔ n = 9 := by omega
  refine (frameRun_append (frameRun_data_bits payload at_start d0 d1 d2 d3) rfl).trans ?_
  simp [EmRegs.frameRun, frameStep_parity, payload, last, nib_clear, rpar_clear, shiftNibble_four,
    groupAnnotations, startAt, stopAt, bitAt, nibbleOf, rowOk, Bits4.foldGroup, Nat.mul_add]

/-- Settles O33: from the start of a group, what `frameRun_group` emits. -/
theorem rowParityLaw : Obligations.RowParityLaw := by
  intro e d0 d1 d2 d3 p payload at_start nib_clear rpar_clear
  obtain ⟨n, at_start⟩ := Nat.dvd_of_mod_eq_zero at_start
  rw [frameRun_group payload at_start nib_clear rpar_clear rfl, groupAnnotations, funext annotation_eq]
  rfl

/-! ### The payload (R176 to R179) -/

/-- The registers before group `n` of a payload; after the tenth group, those of the trailer. -/
def EmRegs.beforeGroup (e : EmRegs) (n : Nat) (col : Bits4) (gstart dstop : Pos) : EmRegs :=
  { e with
    fs := if n = 10 then .trailer else .payload
    pcnt := if n = 10 then 0 else 5 * n
    nib := 0#4
    rpar := false
    col := col
    gstart := gstart
    dstop := dstop }

theorem frameRun_beforeGroup (e : EmRegs) {n : Nat} (more : n < 10) (col : Bits4) (gstart dstop : Pos)
    {g : List BitSymbol} (five : g.length = 5) :
    (e.beforeGroup n col gstart dstop).frameRun g =
      (e.beforeGroup (n + 1) (col.foldGroup g) (startAt g 0) (stopAt g 3), groupAnnotations g) := by
  have payload : (e.beforeGroup n col gstart dstop).fs = .payload := if_neg (by omega)
  have at_start : (e.beforeGroup n col gstart dstop).pcnt = 5 * n := if_neg (by omega)
  rw [frameRun_group payload at_start rfl rfl five]
  simp [EmRegs.beforeGroup]

/-- The groups left of a payload, one after another. -/
theorem frameRun_groups (e : EmRegs) {groups : List (List BitSymbol)} (fives : ∀ g ∈ groups, g.length = 5)
    {n : Nat} (room : n + groups.length ≤ 10) (col : Bits4) (gstart dstop : Pos) :
    ∃ gstart' dstop', (e.beforeGroup n col gstart dstop).frameRun groups.flatten =
      (e.beforeGroup (n + groups.length) (groups.foldl Bits4.foldGroup col) gstart' dstop',
        groups.flatMap groupAnnotations) := by
  induction groups generalizing n col gstart dstop with
  | nil => exact ⟨gstart, dstop, rfl⟩
  | cons g gs ih =>
    rw [List.length_cons] at room
    obtain ⟨gstart', dstop', later⟩ := ih (fun h hh => fives h (List.mem_cons_of_mem g hh)) (n := n + 1)
      (by omega) (col.foldGroup g) (startAt g 0) (stopAt g 3)
    have first := frameRun_beforeGroup e (n := n) (by omega) col gstart dstop (fives g List.mem_cons_self)
    refine ⟨gstart', dstop', (frameRun_append first later).trans ?_⟩
    rw [List.length_cons, Nat.add_right_comm, Nat.add_assoc]
    rfl

/-! ### A trailer (R182 to R185) -/

/-- What a trailer emits, compared with the columns `col`. -/
def trailerAnnotations (col : Bits4) (t : List BitSymbol) : List EmAnnotation :=
  t.map BitSymbol.annotation ++
    [⟨.colparField, startAt t 0, stopAt t 3, BitVec.ofNat 4 (nibbleOf t)⟩,
     ⟨.stopbit, startAt t 4, stopAt t 4, bitWord (bitAt t 4)⟩,
     ⟨.colparVerdict, startAt t 0, stopAt t 3, bitWord ([0, 1, 2, 3].all fun k => col.get k == bitAt t k)⟩]

theorem frameRun_trailer {e : EmRegs} (trailer : e.fs = .trailer) (at_start : e.tcnt = 0) {t : List BitSymbol}
    (five : t.length = 5) :
    e.frameRun t =
      ({ e with
          fs := .header, col := .zero, tb := .zero, tcnt := 0, tstart := startAt t 0, tstop := stopAt t 3 },
        trailerAnnotations e.col t) := by
  obtain ⟨t0, t1, t2, t3, stop, rfl⟩ := exists_five_of_length five
  simp [EmRegs.frameRun, frameStep_column, frameStep_stop, trailer, at_start, trailerAnnotations,
    Bits4.word_eq_ofNat, colParityOk_eq_all, Bits4.put, Bits4.get, startAt, stopAt, bitAt, nibbleOf]

/-! ### A whole frame (R188) -/

/-- What a whole frame emits, `HEADER` with the range it is given. -/
def frameAnnotations (hstart hstop : Pos) (header : List BitSymbol) (groups : List (List BitSymbol))
    (trailer : List BitSymbol) : List EmAnnotation :=
  header.map BitSymbol.annotation ++ [⟨.header, hstart, hstop, 0#4⟩] ++ groups.flatMap groupAnnotations ++
    trailerAnnotations (groups.foldl Bits4.foldGroup .zero) trailer

section WholeFrame
variable {e : EmRegs} {header : List BitSymbol} {groups : List (List BitSymbol)} {trailer : List BitSymbol}

/-- A frame from rest: header, ten groups, trailer, and at rest again but for the position registers. -/
theorem frameRun_wholeFrame (rest : e.FrameAtRest) (nine : header.length = 9)
    (all_ones : ∀ x ∈ header, x.value = true) (ten : groups.length = 10) (fives : ∀ g ∈ groups, g.length = 5)
    (five : trailer.length = 5) :
    ∃ hstart hstop gstart dstop, e.frameRun (header ++ groups.flatten ++ trailer) =
      ({ e with
          hstart := hstart, gstart := gstart, dstop := dstop, tstart := startAt trailer 0,
          tstop := stopAt trailer 3 }, frameAnnotations hstart hstop header groups trailer) := by
  obtain ⟨fs, run, pcnt, nib, rpar, col, tcnt, tb⟩ := rest
  obtain ⟨hstart, hstop, header_run⟩ := frameRun_header all_ones fs (by omega) (by omega)
  have into_payload : { e with run := 0, hstart := hstart, fs := .payload } =
      { e with hstart := hstart }.beforeGroup 0 .zero e.gstart e.dstop := by
    simp [EmRegs.beforeGroup, run, pcnt, nib, rpar, col]
  rw [into_payload] at header_run
  obtain ⟨gstart, dstop, groups_run⟩ :=
    frameRun_groups { e with hstart := hstart } fives (n := 0) (by omega) .zero e.gstart e.dstop
  rw [ten] at groups_run
  have frame_run := frameRun_append (frameRun_append header_run groups_run)
    (frameRun_trailer (by rfl) (by exact tcnt) five)
  refine ⟨hstart, hstop, gstart, dstop, frame_run.trans ?_⟩
  simp [EmRegs.beforeGroup, frameAnnotations, fs, pcnt, nib, rpar, col, tcnt, tb]

end WholeFrame

/-! ### Categories and payloads -/

@[simp] theorem payloadsOf_nil (cat : EmCat) : payloadsOf cat [] = [] := rfl

@[simp] theorem payloadsOf_cons (cat : EmCat) (a : EmAnnotation) (anns : List EmAnnotation) :
    payloadsOf cat (a :: anns) = if a.cat = cat then a.payload :: payloadsOf cat anns else payloadsOf cat anns := by
  by_cases same : a.cat = cat <;> simp [payloadsOf, same]

@[simp] theorem payloadsOf_append (cat : EmCat) (xs ys : List EmAnnotation) :
    payloadsOf cat (xs ++ ys) = payloadsOf cat xs ++ payloadsOf cat ys := by
  simp [payloadsOf]

@[simp] theorem payloadsOf_flatMap {α : Type} (cat : EmCat) (f : α → List EmAnnotation) (xs : List α) :
    payloadsOf cat (xs.flatMap f) = xs.flatMap fun x => payloadsOf cat (f x) := by
  induction xs with
  | nil => rfl
  | cons x xs ih => simp [ih]

@[simp] theorem payloadsOf_bits (cat : EmCat) (syms : List BitSymbol) :
    payloadsOf cat (syms.map BitSymbol.annotation) =
      if cat = .bit then syms.map (fun x => bitWord x.value) else [] := by
  induction syms with
  | nil => simp
  | cons sym syms ih =>
    rw [List.map_cons, payloadsOf_cons, ih, annotation_eq]
    by_cases bit : cat = .bit
    · simp [bit]
    · simp [bit, Ne.symm bit]

/-- The columns folded over the groups are the columns' exclusive ors (R186). -/
theorem get_foldl_foldGroup (groups : List (List BitSymbol)) {k : Nat} (hk : k < 4) :
    (groups.foldl Bits4.foldGroup .zero).get k = columnXor groups k := by
  have column (q : Bits4) (g : List BitSymbol) : (q.get k ^^ bitAt g k) = (q.foldGroup g).get k := by
    interval_cases k <;> rfl
  have start : Bits4.zero.get k = false := by interval_cases k <;> rfl
  rw [← List.foldl_hom (Bits4.get · k) (g₂ := fun b g => b ^^ bitAt g k) column, start, columnXor]

section FrameContents
variable (header : List BitSymbol) (groups : List (List BitSymbol)) (trailer : List BitSymbol)

/-- The payloads of a whole frame's annotations, by category (R180, R186). -/
def framePayloads : EmCat → List (BitVec 4)
  | .bit => (header ++ groups.flatten ++ trailer).map fun x => bitWord x.value
  | .header => [0#4]
  | .data => groups.map fun g => BitVec.ofNat 4 (nibbleOf g)
  | .parity => groups.map fun g => bitWord (bitAt g 4)
  | .rowparVerdict => groups.map fun g => bitWord (rowOk g)
  | .colparField => [BitVec.ofNat 4 (nibbleOf trailer)]
  | .stopbit => [bitWord (bitAt trailer 4)]
  | .colparVerdict => [bitWord ([0, 1, 2, 3].all fun k => columnXor groups k == bitAt trailer k)]

theorem payloadsOf_frameAnnotations (hstart hstop : Pos) (cat : EmCat) :
    payloadsOf cat (frameAnnotations hstart hstop header groups trailer) =
      framePayloads header groups trailer cat := by
  have verdict : ([0, 1, 2, 3].all fun k => (groups.foldl Bits4.foldGroup .zero).get k == bitAt trailer k) =
      [0, 1, 2, 3].all fun k => columnXor groups k == bitAt trailer k := by
    simp [get_foldl_foldGroup]
  have one_each (f : List BitSymbol → BitVec 4) : (groups.flatMap fun g => [f g]) = groups.map f :=
    List.map_eq_flatMap.symm
  have bits : (groups.flatMap fun g => g.map fun x => bitWord x.value) =
      groups.flatten.map fun x => bitWord x.value :=
    List.map_flatten.symm
  unfold frameAnnotations trailerAnnotations framePayloads
  cases cat with
  | bit => simp [groupAnnotations, bits]
  | data | parity | rowparVerdict => simp [groupAnnotations, one_each]
  | colparVerdict => simp [groupAnnotations, ← verdict]
  | header | colparField | stopbit => simp [groupAnnotations]

variable {header groups trailer}

theorem length_flatMap_of_forall {α β : Type} {f : α → List β} {xs : List α} {n : Nat}
    (each : ∀ x ∈ xs, (f x).length = n) : (xs.flatMap f).length = xs.length * n := by
  rw [List.length_flatMap, List.sum_eq_card_nsmul _ n (by simpa using each), List.length_map, smul_eq_mul]

theorem length_flatten_of_fives (fives : ∀ g ∈ groups, g.length = 5) :
    groups.flatten.length = groups.length * 5 := by
  rw [List.flatten_eq_flatMap, length_flatMap_of_forall (f := id) fives]

theorem length_frameAnnotations (hstart hstop : Pos) (nine : header.length = 9) (ten : groups.length = 10)
    (fives : ∀ g ∈ groups, g.length = 5) (five : trailer.length = 5) :
    (frameAnnotations hstart hstop header groups trailer).length = 98 := by
  have eights : ∀ g ∈ groups, (groupAnnotations g).length = 8 := fun g hg => by
    simp [groupAnnotations, fives g hg]
  simp only [frameAnnotations, trailerAnnotations, List.length_append, List.length_map,
    length_flatMap_of_forall eights, nine, ten, five, List.length_cons, List.length_nil]

end FrameContents

/-- Settles O34: a frame run leaves the registers and the annotations of `frameRun_wholeFrame`, whose payloads are
those of `framePayloads`. -/
theorem wholeFrameEmitsItsAnnotations : Obligations.WholeFrameEmitsItsAnnotations := by
  intro e header groups trailer rest nine all_ones ten fives five
  obtain ⟨hstart, hstop, gstart, dstop, run⟩ := frameRun_wholeFrame rest nine all_ones ten fives five
  rw [run]
  refine ⟨length_frameAnnotations hstart hstop nine ten fives five, ?_⟩
  simp only [payloadsOf_frameAnnotations, framePayloads, List.length_map, List.length_append,
    length_flatten_of_fives fives, nine, ten, five, List.length_cons, List.length_nil]
  decide

/-- Settles O35: the payloads of a frame run are those of `framePayloads`. -/
theorem frameVerdictsFollowTheParityLaws : Obligations.FrameVerdictsFollowTheParityLaws := by
  intro e header groups trailer rest nine all_ones ten fives five
  obtain ⟨hstart, hstop, gstart, dstop, run⟩ := frameRun_wholeFrame rest nine all_ones ten fives five
  rw [run]
  have payloads := payloadsOf_frameAnnotations header groups trailer hstart hstop
  exact ⟨payloads .data, payloads .parity, payloads .rowparVerdict, payloads .colparField, payloads .stopbit,
    payloads .colparVerdict⟩

end Sys2Proof.Machine

/-! SUPPORT. The JT unit of 43_jtag.md at work: which commands a state accepts (O44), what an accepted transfer emits
in each register state (O38 to O43), which bits of a vector are read (O46), and what an op can do to the registers of
the unit: the ways out of a state (O45), the malformed state (O48) and the halted unit (O49). -/

namespace Sys2Proof.Machine

/-! ### Which commands a state accepts (R216) -/

/-- The acceptance table in one line: Idle takes an instruction load, a register state a transfer, Bypass only from
`"DR TDI"`. -/
theorem jtAccepts_iff (st : JtSt) (sel : JtSelector) :
    jtAccepts st sel = true ↔
      (st = .idle ∧ sel = .irTdi) ∨
      (st ≠ .idle ∧ st ≠ .code7 ∧ (sel = .drTdi ∨ (sel = .drTdo ∧ st ≠ .bypass))) := by
  cases st <;> cases sel <;> decide

theorem jtAccepts_reserved (st : JtSt) : jtAccepts st .reserved = false := by
  simp [← Bool.not_eq_true, jtAccepts_iff]

/-- A state other than Idle takes no instruction load. -/
theorem jtAccepts_irTdi {st : JtSt} (not_idle : st ≠ .idle) : jtAccepts st .irTdi = false := by
  simp [← Bool.not_eq_true, jtAccepts_iff, not_idle]

/-- The states that take a transfer from either line (R207). -/
abbrev eitherLineStates : List JtSt := [.idcode, .dpacc, .apacc, .abort, .unknown]

theorem eitherLineStates_ne {st : JtSt} (register : st ∈ eitherLineStates) :
    st ≠ .idle ∧ st ≠ .bypass ∧ st ≠ .code7 := by
  revert st; decide

theorem jtAccepts_line {st : JtSt} (register : st ∈ eitherLineStates) (line : DrLine) :
    jtAccepts st (lineSelector line) = true := by
  obtain ⟨not_idle, not_bypass, declared⟩ := eitherLineStates_ne register
  refine (jtAccepts_iff st _).mpr (.inr ⟨not_idle, declared, ?_⟩)
  cases line with
  | tdi => exact .inl rfl
  | tdo => exact .inr ⟨rfl, not_bypass⟩

/-- A command that its declared state does not accept does nothing, whether the unit is halted or not. -/
theorem jtCommand_noEffect_of_not_accepted {s : State} {sel : JtSelector} (declared : s.jt.st ≠ .code7)
    (not_accepted : jtAccepts s.jt.st sel = false) (c : JtCommand) : NoEffect s (s.jtCommand sel c) := by
  rcases jtCommand_cases s sel c with ⟨-, e⟩ | ⟨-, malformed, -⟩ | ⟨-, -, accepted, -⟩
  · exact e ▸ idleCycle_noEffect s
  · exact absurd malformed declared
  · cases not_accepted.symm.trans accepted

/-- A halted unit discards every command. -/
theorem jtCommand_noEffect_of_halted {s : State} (halted : s.jt.fault = true) (sel : JtSelector) (c : JtCommand) :
    NoEffect s (s.jtCommand sel c) := by
  rcases jtCommand_cases s sel c with ⟨-, e⟩ | ⟨running, -⟩ | ⟨running, -⟩
  · exact e ▸ idleCycle_noEffect s
  · cases halted.symm.trans running
  · cases halted.symm.trans running

/-- Settles O44: the acceptance table answers no for each of these commands. -/
theorem unacceptedCommandsAreIgnored : Obligations.UnacceptedCommandsAreIgnored := by
  intro s c
  have ignored : ∀ {st : JtSt} {sel : JtSelector}, s.jt.st = st → st ≠ .code7 → jtAccepts st sel = false →
      NoEffect s (s.jtCommand sel c) := fun found declared not_accepted =>
    jtCommand_noEffect_of_not_accepted (found ▸ declared) (found ▸ not_accepted) c
  simp only [List.mem_cons, List.not_mem_nil, or_false, forall_eq_or_imp, forall_eq]
  refine ⟨fun idle => ⟨?_, ?_⟩, fun bypass => ⟨?_, ?_⟩, fun declared => ?_⟩
  · exact ⟨_, rfl, ignored idle nofun rfl⟩
  · exact ⟨_, rfl, ignored idle nofun rfl⟩
  · exact ⟨_, rfl, ignored bypass nofun rfl⟩
  · exact ⟨_, rfl, ignored bypass nofun rfl⟩
  · exact ⟨_, rfl, ignored rfl declared (jtAccepts_reserved _)⟩

/-! ### The fields of a register's vector (R89 to R91, R202) -/

section
variable (c : JtCommand)

theorem normVector_eq_ofNat : normVector c = BitVec.ofNat 64 (vectorValue c) := rfl

theorem dataField_normVector : dataField (normVector c) = BitVec.ofNat 32 (vectorValue c / 8) := by
  apply BitVec.eq_of_toNat_eq
  simp [dataField, normVector_toNat, Nat.shiftRight_eq_div_pow]

theorem addrField_normVector : addrField (normVector c) = BitVec.ofNat 2 (vectorValue c / 2) := by
  apply BitVec.eq_of_toNat_eq
  simp [addrField, normVector_toNat, Nat.shiftRight_eq_div_pow]

theorem ackField_normVector : ackField (normVector c) = BitVec.ofNat 3 (vectorValue c) := by
  apply BitVec.eq_of_toNat_eq
  simp [ackField, normVector_toNat]

theorem getLsbD_zero_normVector : (normVector c).getLsbD 0 = decide (vectorValue c % 2 = 1) := by
  rw [← BitVec.testBit_toNat, normVector_toNat, Nat.testBit_zero]

theorem rnwField_normVector : rnwField (normVector c) = decide (vectorValue c % 2 = 1) := getLsbD_zero_normVector c

theorem dapabortField_normVector : dapabortField (normVector c) = decide (vectorValue c % 2 = 1) :=
  getLsbD_zero_normVector c

theorem abortReservedField_eq_zero_iff :
    abortReservedField (normVector c) = 0 ↔ vectorValue c / 2 % 2 ^ 31 = 0 := by
  rw [← BitVec.toNat_inj]
  simp [abortReservedField, normVector_toNat, Nat.shiftRight_eq_div_pow]

end

/-! ### An accepted transfer (R206 to R217) -/

section
variable {s : State} {st : JtSt} {c : JtCommand} {ps : List JtPayload}

/-- A transfer that the register state `st` accepts emits that state's payloads and returns to Idle. -/
theorem jtCommand_transfer_effect {sel : JtSelector} (running : s.jt.fault = false) (found : s.jt.st = st)
    (register : st ≠ .idle) (accepted : jtAccepts st sel = true) (emits : jtPayloads st c = ps) :
    JtEffect s (s.jtCommand sel c) .idle c ps := by
  subst found emits
  have returns : jtNext s.jt.st c = .idle := by
    unfold jtNext
    split
    next idle => exact absurd idle register
    next => rfl
  exact returns ▸ jtCommand_effect running accepted c

/-- In a register state other than Bypass the two commands and the layout row `row` on either line all have that
effect. -/
theorem transfers_effect (running : s.jt.fault = false) (found : s.jt.st = st)
    (register : st ∈ eitherLineStates) (emits : jtPayloads st c = ps)
    {row : DrLine → JtCommand → Instr}
    (row_command : ∀ line, exec (row line c) s = .next (s.jtCommand (lineSelector line) c)) :
    ∀ i ∈ [Instr.jtCmdDrTdi c, .jtCmdDrTdo c, row .tdi c, row .tdo c],
      ∃ t, exec i s = .next t ∧ JtEffect s t .idle c ps := by
  have not_idle := (eitherLineStates_ne register).1
  have effect : ∀ line, JtEffect s (s.jtCommand (lineSelector line) c) .idle c ps := fun line =>
    jtCommand_transfer_effect running found not_idle (jtAccepts_line register line) emits
  simp only [List.mem_cons, List.not_mem_nil, or_false, forall_eq_or_imp, forall_eq]
  exact ⟨⟨_, rfl, effect .tdi⟩, ⟨_, rfl, effect .tdo⟩, ⟨_, row_command .tdi, effect .tdi⟩,
    ⟨_, row_command .tdo, effect .tdo⟩⟩

end

/-- Settles O38: Bypass accepts the transfer on `"DR TDI"`, and its payload is the raw vector. -/
theorem bypassEmitsTheRawVector : Obligations.BypassEmitsTheRawVector := by
  intro s c running bypass
  have effect := jtCommand_transfer_effect (sel := .drTdi) (c := c) running bypass nofun rfl rfl
  simp only [List.mem_cons, List.not_mem_nil, or_false, forall_eq_or_imp, forall_eq]
  exact ⟨⟨_, rfl, effect⟩, ⟨_, rfl, effect⟩⟩

/-- Settles O39: the payload of IdCode is the normalised vector. -/
theorem idcodeEmitsTheWholeVector : Obligations.IdcodeEmitsTheWholeVector := fun _ _ running idcode =>
  transfers_effect running idcode (by decide) rfl (row := .drIdcode) fun _ => rfl

/-- Dpacc and Apacc emit both readings of the vector, whose fields are slices of its value. -/
theorem jtPayloads_access {reg : JtSt} (access : reg = .dpacc ∨ reg = .apacc) (c : JtCommand) :
    jtPayloads reg c =
      [.dataIn reg (BitVec.ofNat 32 (vectorValue c / 8)) (BitVec.ofNat 2 (vectorValue c / 2))
        (decide (vectorValue c % 2 = 1)),
       .dataOut reg (BitVec.ofNat 32 (vectorValue c / 8)) (BitVec.ofNat 3 (vectorValue c))] := by
  rcases access with rfl | rfl <;>
    simp only [jtPayloads, dataField_normVector, addrField_normVector, rnwField_normVector, ackField_normVector]

/-- Settles O40: each of the two states emits both readings, tagged with itself. -/
theorem accessRegistersEmitBothReadings : Obligations.AccessRegistersEmitBothReadings := fun _ c running =>
  ⟨fun dpacc => transfers_effect running dpacc (by decide) (jtPayloads_access (.inl rfl) c) (row := .drDpacc)
      fun _ => rfl,
    fun apacc => transfers_effect running apacc (by decide) (jtPayloads_access (.inr rfl) c) (row := .drApacc)
      fun _ => rfl⟩

/-- Settles O41: the status is bit 0, and the reserved bits are zero exactly if the value's bits 1 to 31 are. -/
theorem abortReportsAndWarns : Obligations.AbortReportsAndWarns := by
  intro s c running abort
  refine transfers_effect running abort (by decide) ?_ (row := .drAbort) fun _ => rfl
  simp only [jtPayloads, dapabortField_normVector, abortReservedField_eq_zero_iff]

/-- Settles O42: the payload of Unknown is the raw vector. -/
theorem unknownEmitsADiagnostic : Obligations.UnknownEmitsADiagnostic := fun _ _ running unknown =>
  transfers_effect running unknown (by decide) rfl (row := .drUnknown) fun _ => rfl

/-- A command reads its selector only to ask whether the state accepts it. -/
theorem jtCommand_congr_sel {s : State} {sel sel' : JtSelector}
    (same : jtAccepts s.jt.st sel = jtAccepts s.jt.st sel') (c : JtCommand) :
    s.jtCommand sel c = s.jtCommand sel' c := by
  simp only [State.jtCommand, same]

/-- Settles O43: a register state accepts a transfer on either line, and nothing else. -/
theorem transferLinesAreNotDistinguished : Obligations.TransferLinesAreNotDistinguished := by
  intro s c register
  obtain ⟨not_idle, -, declared⟩ := eitherLineStates_ne register
  have accepted := jtAccepts_line register
  have ignored : ∀ {sel}, jtAccepts s.jt.st sel = false → NoEffect s (s.jtCommand sel c) := fun not_accepted =>
    jtCommand_noEffect_of_not_accepted declared not_accepted c
  simp only [List.mem_cons, List.not_mem_nil, or_false, forall_eq_or_imp, forall_eq]
  refine ⟨?same, fun running => ⟨?tdi, ?tdo⟩, ?load, ?reserved⟩
  case same =>
    exact congrArg Host.Outcome.next (jtCommand_congr_sel ((accepted .tdi).trans (accepted .tdo).symm) c)
  case tdi => exact ⟨_, rfl, (jtCommand_transfer_effect running rfl not_idle (accepted .tdi) rfl).st⟩
  case tdo => exact ⟨_, rfl, (jtCommand_transfer_effect running rfl not_idle (accepted .tdo) rfl).st⟩
  case load => exact ⟨_, rfl, ignored (jtAccepts_irTdi not_idle)⟩
  case reserved => exact ⟨_, rfl, ignored (jtAccepts_reserved _)⟩

/-! ### The bits of a vector that are read (R202) -/

theorem normVector_congr {c d : JtCommand} (len : c.len = d.len)
    (agree : ∀ k < c.len.toNat, c.val.getLsbD k = d.val.getLsbD k) : normVector c = normVector d := by
  have same_value : vectorValue c = vectorValue d := by
    refine Nat.eq_of_testBit_eq fun k => ?_
    simp only [vectorValue, ← len, Nat.testBit_mod_two_pow, BitVec.testBit_toNat]
    by_cases below : k < c.len.toNat
    · rw [agree k below]
    · simp [below]
  rw [normVector_eq_ofNat, same_value, normVector_eq_ofNat]

/-- A command's outcome depends on its vector only through the normalised one. -/
theorem jtCommand_congr {c d : JtCommand} (len : c.len = d.len) (start : c.start = d.start) (stop : c.stop = d.stop)
    (vector : normVector c = normVector d) (s : State) (sel : JtSelector) :
    s.jtCommand sel c = s.jtCommand sel d := by
  have next : jtNext s.jt.st c = jtNext s.jt.st d := by simp only [jtNext, vector]
  have payloads : jtPayloads s.jt.st c = jtPayloads s.jt.st d := by simp only [jtPayloads, vector, len]
  have slots : ∀ p : JtPayload, p.slot s.jt.st c = p.slot s.jt.st d := fun p => by
    simp only [JtPayload.slot, vector, len, start, stop]
  have annotations : ∀ p : JtPayload, p.annotate c = p.annotate d := fun p => by
    simp only [JtPayload.annotate, start, stop]
  simp only [State.jtCommand, State.jtFinish, jtPortOf, next, payloads, slots, annotations]

/-- Settles O46: commands that agree below their length have the same normalised vector. -/
theorem vectorBitsAboveLengthAreIgnored : Obligations.VectorBitsAboveLengthAreIgnored := by
  intro s c d len start stop agree
  have same := jtCommand_congr len start stop (normVector_congr len agree) s
  exact ⟨congrArg Host.Outcome.next (same .irTdi), congrArg Host.Outcome.next (same .drTdi),
    congrArg Host.Outcome.next (same .drTdo), congrArg Host.Outcome.next (same .reserved)⟩

/-! ### What an op can do to the registers of the JT unit -/

/-- The op is the command `c` with the selector `sel`, whatever state it finds; the selector tells a transfer, and
its line. -/
structure IsCommand (i : Instr) (sel : JtSelector) (c : JtCommand) : Prop where
  exec : ∀ s, exec i s = .next (s.jtCommand sel c)
  transfer : isTransfer i = true ↔ sel = .drTdi ∨ sel = .drTdo
  tdo : isTdoTransfer i = true ↔ sel = .drTdo

theorem exists_isCommand {i : Instr} (jt : isJtOp i = true) : ∃ sel c, IsCommand i sel c := by
  cases i with
  | drIdcode line | drDpacc line | drApacc line | drAbort line | drUnknown line =>
    refine ⟨lineSelector line, _, fun _ => rfl, ?_, ?_⟩ <;> cases line <;>
      simp [isTransfer, isTdoTransfer, lineSelector]
  | jtCmdIrTdi | jtCmdDrTdi | jtCmdDrTdo | jtCmdReservedSelector | drBypass
  | irBypass | irIdcode | irDpacc | irApacc | irAbort | irUnknown =>
    exact ⟨_, _, fun _ => rfl, by simp [isTransfer], by simp [isTdoTransfer]⟩
  | _ => cases jt

/-- All an op that completes can do to `jt.st` and `jt.fault`: reset them, leave them, raise on the malformed state,
or move on by an accepted command. -/
theorem exec_jt_cases {s t : State} {i : Instr} (he : exec i s = .next t) :
    (i = .reset ∧ t.jt = JtRegs.reset) ∨
    t.jt = s.jt ∨
    (s.jt.fault = false ∧ s.jt.st = .code7 ∧ t.jt = { s.jt with fault := true }) ∨
    (∃ sel c, IsCommand i sel c ∧ s.jt.fault = false ∧ s.jt.st ≠ .code7 ∧ jtAccepts s.jt.st sel = true ∧
      t.jt = { s.jt with st := jtNext s.jt.st c }) := by
  rcases exec_next_cases he with ⟨rfl, rfl⟩ | ⟨em, -⟩ | ⟨jt, -⟩
  · exact .inl ⟨rfl, rfl⟩
  · exact .inr (.inl ((unitsWriteOnlyTheirOwnState s t i he).1 em).1)
  · obtain ⟨sel, c, command⟩ := exists_isCommand jt
    rw [command.exec] at he
    cases he
    rcases jtCommand_cases s sel c with ⟨-, e⟩ | ⟨running, malformed, e⟩ | ⟨running, declared, accepted, e⟩
    · exact .inr (.inl ((congrArg State.jt e).trans (quiet_jt s)))
    · exact .inr (.inr (.inl ⟨running, malformed, congrArg State.jt e⟩))
    · exact .inr (.inr (.inr ⟨sel, c, command, running, declared, accepted, congrArg State.jt e⟩))

/-- Settles O45: of the things an op can do only reset and an accepted command leave the state, and a state other than
Idle accepts only transfers. -/
theorem nonIdleStatesAreLeftOnlyForIdle : Obligations.NonIdleStatesAreLeftOnlyForIdle := by
  intro s t i he not_idle left
  rcases exec_jt_cases he with
    ⟨is_reset, e⟩ | e | ⟨-, -, e⟩ | ⟨sel, c, command, running, declared, accepted, -⟩
  · exact ⟨congrArg JtRegs.st e, .inl is_reset⟩
  · exact absurd (congrArg JtRegs.st e) left
  · exact absurd (congrArg JtRegs.st e) left
  · rw [command.exec] at he
    cases he
    refine ⟨(jtCommand_transfer_effect running rfl not_idle accepted rfl).st,
      .inr ⟨command.transfer.mpr ?transfer, running, declared, fun ⟨bypass, tdo⟩ => ?not_tdo⟩⟩
    case transfer =>
      obtain ⟨idle, -⟩ | ⟨-, -, tdi | ⟨tdo, -⟩⟩ := (jtAccepts_iff _ _).mp accepted
      · exact absurd idle not_idle
      · exact .inl tdi
      · exact .inr tdo
    case not_tdo =>
      rw [bypass, command.tdo.mp tdo] at accepted
      cases accepted

/-! ### The malformed state and the halted unit (R221, R222) -/

/-- Settles O48: the table and the reset select declared states; on code 7 a running unit takes the fault. -/
theorem malformedStateRaises : Obligations.MalformedStateRaises := by
  constructor
  case left =>
    intro s t i he declared
    rcases exec_jt_cases he with ⟨-, e⟩ | e | ⟨-, malformed, -⟩ | ⟨sel, c, -, -, -, -, e⟩
    · rw [e]; exact nofun
    · rw [e]; exact declared
    · exact absurd malformed declared
    · rw [e]; exact jtNext_ne_code7 _ _
  case right =>
    intro s i jt malformed running
    obtain ⟨sel, c, command⟩ := exists_isCommand jt
    rcases jtCommand_cases s sel c with ⟨halted | ⟨declared, -⟩, -⟩ | ⟨-, -, e⟩ | ⟨-, declared, -⟩
    · cases halted.symm.trans running
    · exact absurd malformed declared
    · refine ⟨_, (command.exec s).trans (congrArg _ e), ?_, rfl, rfl, rfl, rfl, rfl, rfl⟩
      simp [malformed]
    · exact absurd malformed declared

/-- Settles O49: a halted unit discards; no command clears the flag; an EM op writes and raises by the EM registers
alone. -/
theorem haltedUnitDiscardsUntilReset : Obligations.HaltedUnitDiscardsUntilReset := by
  refine ⟨?discards, ?only_reset_clears, ?em_unaffected⟩
  case discards =>
    intro s i jt halted
    obtain ⟨sel, c, command⟩ := exists_isCommand jt
    exact ⟨_, command.exec s, jtCommand_noEffect_of_halted halted sel c⟩
  case only_reset_clears =>
    intro s t i he halted cleared
    rcases exec_jt_cases he with ⟨is_reset, -⟩ | e | ⟨running, -⟩ | ⟨sel, c, -, running, -⟩
    · exact is_reset
    · rw [e, halted] at cleared
      cases cleared
    · cases halted.symm.trans running
    · cases halted.symm.trans running
  case em_unaffected =>
    intro s t i em he
    rcases exec_em_cases em he with ⟨⟨a, b, rfl⟩, unset, rfl⟩ | ⟨regs, anns, writes, rfl⟩
    · exact exec_emBatch_raises unset
    · exact exec_of_writes writes

end Sys2Proof.Machine

/-! SUPPORT. The fault code each port shows after an op, and its one cause (O50). -/

namespace Sys2Proof.Machine

/-! ### Fault codes (R241 to R243) -/

/-- All the EM port can show for a fault: code 1 at a batch that raises (R129), or none. -/
theorem exec_emPort_faultCode_cases {s t : State} {i : Instr} (he : exec i s = .next t) :
    (t.emPort.faultCode = 1#2 ∧ (∃ a b, i = .emBatch a b) ∧ s.em.samplerate = 0#32) ∨
    t.emPort.faultCode = 0#2 := by
  rcases exec_cases he with ⟨-, rfl⟩ | ⟨batch, unset, rfl⟩ | ⟨regs, anns, -, rfl⟩ | ⟨sel, c, -, rfl⟩
  · exact .inr rfl
  · exact .inl ⟨rfl, batch, unset⟩
  · exact .inr rfl
  · obtain ⟨-, -, idle, -⟩ := jtCommand_leaves_em s sel c
    exact .inr (congrArg EmPort.faultCode idle)

/-- All the JT port can show for a fault: code 2 at a command that finds a running unit in code 7 (R221), or none. -/
theorem exec_jtPort_faultCode_cases {s t : State} {i : Instr} (he : exec i s = .next t) :
    (t.jtPort.faultCode = 2#2 ∧ isJtOp i = true ∧ s.jt.st = .code7 ∧ s.jt.fault = false) ∨
    t.jtPort.faultCode = 0#2 := by
  rcases exec_next_cases he with ⟨-, rfl⟩ | ⟨em, -⟩ | ⟨jt, sel, c, rfl⟩
  · exact .inr rfl
  · obtain ⟨-, -, idle, -⟩ := (unitsWriteOnlyTheirOwnState s t i he).1 em
    exact .inr (congrArg JtPort.faultCode idle)
  · rcases jtCommand_cases s sel c with ⟨-, e⟩ | ⟨running, malformed, e⟩ | ⟨-, -, -, e⟩
    · exact .inr (congrArg (·.jtPort.faultCode) e)
    · exact .inl ⟨congrArg (·.jtPort.faultCode) e, jt, malformed, running⟩
    · exact .inr (congrArg (·.jtPort.faultCode) e)

/-- Settles O50: a port shows its unit's code for its cause or none at all, and the cause does raise it. -/
theorem eachFaultHasOneCause : Obligations.EachFaultHasOneCause := by
  intro s t i he
  have em_code := exec_emPort_faultCode_cases he
  have jt_code := exec_jtPort_faultCode_cases he
  refine ⟨em_code.symm.imp_right And.left, ⟨?em_cause, ?em_raises⟩,
    jt_code.symm.imp_right And.left, ⟨?jt_cause, ?jt_raises⟩⟩
  case em_cause =>
    intro shown
    simpa [shown] using em_code
  case em_raises =>
    rintro ⟨⟨a, b, rfl⟩, unset⟩
    rw [exec_emBatch_raises unset] at he
    cases he
    rfl
  case jt_cause =>
    intro shown
    simpa [shown] using jt_code
  case jt_raises =>
    rintro ⟨jt, malformed, running⟩
    obtain ⟨u, raises, -, port, -⟩ := malformedStateRaises.2 s i jt malformed running
    cases raises.symm.trans he
    exact congrArg JtPort.faultCode port

end Sys2Proof.Machine

/-! SUPPORT. The hazards of 70_reset_and_hazards.md: sample rate zero in mid-batch (O16) and edges out of order (O19). -/

namespace Sys2Proof.Machine

/-! ### Sample rate zero (R268) -/

/-- The sample rate is a factor of the threshold (R121, R122), so rate zero makes it 0. -/
theorem halfBitThreshold_of_zero_rate {e : EmRegs} (zero_rate : e.samplerate = 0#32) : e.halfBitThreshold = 0 := by
  simp [halfBitThreshold_eq_div, zero_rate]

/-- Settles O16: the classes are comparisons with the threshold, which is 0, and no length is below 0. -/
theorem zeroRateMakesEveryPulseLong : Obligations.ZeroRateMakesEveryPulseLong := by
  intro e x coil zero_rate
  have threshold := halfBitThreshold_of_zero_rate zero_rate
  obtain ⟨-, tie_iff, -⟩ := coil.tCmp_iff 0#64
  obtain ⟨-, -, long_iff⟩ := coil.tCmp_iff x
  refine ⟨threshold, ?tie, ?long⟩
  case tie =>
    rw [tie_iff, threshold]
    rfl
  case long =>
    intro nonempty
    have length_pos : 0 < x.toNat := Nat.pos_of_ne_zero fun zero => nonempty (BitVec.eq_of_toNat_eq zero)
    rw [long_iff, threshold]
    exact_mod_cast length_pos

/-! ### Edges out of order (R271) -/

/-- Settles O19: of all a sample can do (`execEmSample_cases`), discarding it needs a closed batch or a repeated level,
initialising needs the first sample, and an edge needs a later position; the refusal is left. -/
theorem edgesOutOfOrderAreRefused : Obligations.EdgesOutOfOrderAreRefused := by
  intro s position level batch_open tracking level_changed not_later
  rcases execEmSample_cases position level s with
    ⟨closed | ⟨-, repeated⟩, -⟩ | ⟨-, first, -⟩ | ⟨-, -, -, -, refused⟩ | ⟨at_edge, -⟩
  · cases closed.symm.trans batch_open
  · exact absurd repeated level_changed
  · cases first.symm.trans tracking
  · exact refused
  · exact absurd at_edge.later (Nat.not_lt.mpr not_later)

end Sys2Proof.Machine
